-- ==== Sys2Proof/Word.lean ====
section
/-! DEFINITION. The word types of the block: the byte of the wire and of the payload memories, and the 32-bit word of the
host bus (00_scope.md R13, R14). All values are unsigned (R14). -/

namespace Sys2Proof

/-- A byte: 8 bits, an unsigned value 0 to 255 (00_scope.md R14). -/
abbrev Byte := BitVec 8

/-- A word of the host data bus: 32 bits (00_scope.md R13). -/
abbrev Word := BitVec 32

/-- A byte address of the host register space, HADDR[17:0] (00_scope.md R13, 20_memory.md R44). -/
abbrev HostAddr := BitVec 18

end Sys2Proof
end

