-- ==== Sys2Proof/Config.lean ====
section
/-! DEFINITION. The framing dialect CFG (00_scope.md R8), fixed when the block is built, its two named profiles (R11, R12),
and the one free value of the model, the contents of payload bytes that nothing has written since reset
(93_implementation_defined.md I1). The values R9 derives from CFG stand in Machine/Params.lean. -/

namespace Sys2Proof

/-- The byte order of a two-byte field on the wire: `be` sends the most significant byte first, `le` the least significant
(00_scope.md R8, 20_memory.md R47). -/
inductive ByteOrder where
  | be
  | le
deriving DecidableEq, Repr

/-- CHK_ALG, the checksum algorithm (00_scope.md R8). The codes 4 to 7 are illegal and have no constructor
(30_encoding.md R73, log 6). -/
inductive ChkAlg where
  | xor8
  | sum8
  | sum16
  | crc16
deriving DecidableEq, Repr

/-- The start marker: START_LEN, START0 and, only when START_LEN is 2, START1 (00_scope.md R8). -/
inductive StartMarker where
  | one (start0 : Byte)
  | two (start0 start1 : Byte)
deriving DecidableEq, Repr

/-- LEN_W with MAX_PAYLOAD. The limit is held in LEN_W bytes, so that it is at most `2^(8*LEN_W) - 1` as R8 requires
(00_scope.md R8, log 6). -/
inductive LenField where
  | one (maxPayload : BitVec 8)
  | two (maxPayload : BitVec 16)
deriving DecidableEq, Repr

/-- CFG: the framing dialect. Every value of the type is a legal configuration of 00_scope.md R8, and every legal
configuration is a value of the type; an illegal one is refused by `buildConfig` (30_encoding.md R73, log 6). -/
structure Config where
  /-- START_LEN, START0 and START1. -/
  start : StartMarker
  /-- LEN_W and MAX_PAYLOAD. -/
  len : LenField
  /-- LEN_ORDER; without effect on frames when LEN_W is 1, but reported in CFG0. -/
  lenOrder : ByteOrder
  /-- CHK_ALG. -/
  chkAlg : ChkAlg
  /-- CHK_ORDER; without effect on frames when CHK_W is 1, but reported in CFG0. -/
  chkOrder : ByteOrder
deriving DecidableEq, Repr

/-- Profile REF (00_scope.md R11): marker 01, one length byte, XOR8, MAX_PAYLOAD 255. The spec's own choice for its
vectors, no claim about a device. -/
def Config.ref : Config :=
  { start := .one 0x01#8, len := .one 255#8, lenOrder := .be, chkAlg := .xor8, chkOrder := .be }

/-- Profile GNP (00_scope.md R12): REF with CRC16, high byte first. -/
def Config.gnp : Config := { Config.ref with chkAlg := .crc16 }

/-- The two payload memories (10_state.md R39, R40). -/
inductive PayloadMem where
  | txp
  | rxp
deriving DecidableEq, Repr

/-- The byte that index `index` of payload memory `mem` holds when nothing has written it since the `epoch`-th reset. A free
value: the spec says that it is unspecified and that the rules hold for every choice (93_implementation_defined.md I1,
10_state.md R43, log 4). -/
opaque Config.unwrittenByte (mem : PayloadMem) (epoch index : Nat) : Byte

end Sys2Proof
end

