-- ==== Sys2Proof/Machine/Params.lean ====
section
/-! DEFINITION. The values that CFG fixes (00_scope.md R9, 20_memory.md R45), each under the spec's name, and the check that
refuses to build a block with an illegal CFG (30_encoding.md R73, 93_implementation_defined.md I4). -/

namespace Sys2Proof

/-- The code of a byte order in CFG0 and in CFG: 0 BE, 1 LE (00_scope.md R8, 10_state.md R27). -/
def ByteOrder.code : ByteOrder → Nat
  | .be => 0
  | .le => 1

/-- The code of a checksum algorithm in CFG0 and in CFG (00_scope.md R8, 10_state.md R27). -/
def ChkAlg.code : ChkAlg → Nat
  | .xor8 => 0
  | .sum8 => 1
  | .sum16 => 2
  | .crc16 => 3

/-- START_LEN, the number of start-marker bytes (00_scope.md R8). -/
def Config.startLen (cfg : Config) : Nat :=
  match cfg.start with
  | .one _ => 1
  | .two _ _ => 2

/-- START0 (00_scope.md R8). -/
def Config.start0 (cfg : Config) : Byte :=
  match cfg.start with
  | .one b => b
  | .two b _ => b

/-- START1 as CFG0 reports it: 0 when START_LEN is 1 (10_state.md R27). -/
def Config.start1 (cfg : Config) : Byte :=
  match cfg.start with
  | .one _ => 0#8
  | .two _ b => b

/-- START_BYTES of 40_frame_codec.md R80. -/
def Config.startBytes (cfg : Config) : List Byte :=
  match cfg.start with
  | .one b => [b]
  | .two b c => [b, c]

/-- LEN_W, the width in bytes of the length field (00_scope.md R8). -/
def Config.lenW (cfg : Config) : Nat :=
  match cfg.len with
  | .one _ => 1
  | .two _ => 2

/-- MAX_PAYLOAD (00_scope.md R8). -/
def Config.maxPayload (cfg : Config) : Nat :=
  match cfg.len with
  | .one m => m.toNat
  | .two m => m.toNat

/-- CHK_W, the width in bytes of the checksum field (00_scope.md R9). -/
def Config.chkW (cfg : Config) : Nat :=
  match cfg.chkAlg with
  | .xor8 => 1
  | .sum8 => 1
  | .sum16 => 2
  | .crc16 => 2

/-- HDR_LEN (00_scope.md R9). -/
def Config.hdrLen (cfg : Config) : Nat := cfg.startLen + 2 + cfg.lenW

/-- FRAME_LEN of a payload of `n` bytes (00_scope.md R9). -/
def Config.frameLen (cfg : Config) (n : Nat) : Nat := cfg.hdrLen + n + cfg.chkW

/-- MAX_FRAME, which is also RXBUF_CAP (00_scope.md R9). -/
def Config.maxFrame (cfg : Config) : Nat := cfg.frameLen cfg.maxPayload

/-- WW, the number of 32-bit words of a payload window: MAX_PAYLOAD / 4 rounded up (20_memory.md R45). -/
def Config.windowWords (cfg : Config) : Nat := (cfg.maxPayload + 3) / 4

/-- A configuration as the numbers of 00_scope.md R8, legal or not. -/
structure RawConfig where
  startLen : Nat
  start0 : Byte
  start1 : Byte
  lenW : Nat
  lenOrder : Nat
  chkAlg : Nat
  chkOrder : Nat
  maxPayload : Nat
deriving DecidableEq, Repr

/-- A byte order from its code (00_scope.md R8). -/
def byteOrderOfCode : Nat → Option ByteOrder
  | 0 => some .be
  | 1 => some .le
  | _ => none

/-- A checksum algorithm from its code; 4 to 7 are illegal (30_encoding.md R73). -/
def chkAlgOfCode : Nat → Option ChkAlg
  | 0 => some .xor8
  | 1 => some .sum8
  | 2 => some .sum16
  | 3 => some .crc16
  | _ => none

/-- The start marker of a raw configuration; START_LEN other than 1 and 2 is illegal (30_encoding.md R73). -/
def startMarkerOfRaw (r : RawConfig) : Option StartMarker :=
  match r.startLen with
  | 1 => some (.one r.start0)
  | 2 => some (.two r.start0 r.start1)
  | _ => none

/-- LEN_W with MAX_PAYLOAD of a raw configuration; LEN_W other than 1 and 2, and MAX_PAYLOAD above `2^(8*LEN_W) - 1`, are
illegal (30_encoding.md R73). -/
def lenFieldOfRaw (r : RawConfig) : Option LenField :=
  match r.lenW with
  | 1 => if r.maxPayload ≤ 255 then some (.one (BitVec.ofNat 8 r.maxPayload)) else none
  | 2 => if r.maxPayload ≤ 65535 then some (.two (BitVec.ofNat 16 r.maxPayload)) else none
  | _ => none

/-- The block of a raw configuration, or `none` where the configuration is illegal: a model refuses to build such a block
(30_encoding.md R73, 93_implementation_defined.md I4). -/
def buildConfig (r : RawConfig) : Option Config :=
  match startMarkerOfRaw r, lenFieldOfRaw r, byteOrderOfCode r.lenOrder, chkAlgOfCode r.chkAlg,
      byteOrderOfCode r.chkOrder with
  | some start, some len, some lenOrder, some chkAlg, some chkOrder =>
    some { start := start, len := len, lenOrder := lenOrder, chkAlg := chkAlg, chkOrder := chkOrder }
  | _, _, _, _, _ => none

end Sys2Proof
end

