-- ==== Sys2Proof/Syntax.lean ====
section
/-! DEFINITION. The operations of the block, one constructor per row of spec/opcode_table.json, with the operands the rules
name (30_encoding.md R72), and the inputs they are read from: the host access (R66), the two encodings HBUS and IV
(R66, R71), and the inputs of one clock cycle (44_cycle.md R133). -/

namespace Sys2Proof

/-- A host access: the tuple (HWRITE, HADDR, HSIZE, HWDATA) of 30_encoding.md R66. HSIZE is the access size in bytes, a
natural number (log 9). -/
structure Access where
  hwrite : Bool
  haddr : HostAddr
  hsize : Nat
  hwdata : Word
deriving DecidableEq, Repr

/-- The two formats of spec/opcode_table.json. `hbus` holds HSIZE and the 52-bit key `A<<32 | HWDATA` (30_encoding.md R66,
R72); `iv` holds the 13-bit input vector of R71. -/
inductive Encoding where
  | hbus (hsize : Nat) (key : BitVec 52)
  | iv (v : BitVec 13)
deriving DecidableEq, Repr

/-- The inputs of one clock cycle (44_cycle.md R133): the reset input, the channel and time-base signals as the input vector
IV (30_encoding.md R71), and at most one host access. -/
structure Cycle where
  rst : Bool
  iv : BitVec 13
  access : Option Access
deriving DecidableEq, Repr

/-- A cycle with no reset, no channel input and no host access, `-` in 30_encoding.md R74. -/
def Cycle.quiet : Cycle := { rst := false, iv := 0#13, access := none }

/-- The operations a step reacts to (00_scope.md R2), one constructor per row of spec/opcode_table.json. The operands are
those the rules name; HWDATA bits that a rule ignores are no operand (log 11). -/
inductive Instr where
  /-- CTRL_NOP (43_host_ops.md R129). -/
  | ctrlNop
  /-- CTRL_EXECUTE (43_host_ops.md R130). -/
  | ctrlExecute
  /-- CTRL_ACK (43_host_ops.md R131). -/
  | ctrlAck
  /-- CTRL_RESERVED (43_host_ops.md R132). -/
  | ctrlReserved
  /-- RD_CFG0 (43_host_ops.md R110). -/
  | rdCfg0
  /-- RD_CFG1 (43_host_ops.md R111). -/
  | rdCfg1
  /-- RD_CTRL (43_host_ops.md R112). -/
  | rdCtrl
  /-- RD_STATUS (43_host_ops.md R113). -/
  | rdStatus
  /-- RD_REQ (43_host_ops.md R114). -/
  | rdReq
  /-- RD_TXLEN (43_host_ops.md R115). -/
  | rdTxlen
  /-- RD_POLICY (43_host_ops.md R116). -/
  | rdPolicy
  /-- RD_RESULT (43_host_ops.md R117). -/
  | rdResult
  /-- RD_NAKRSN (43_host_ops.md R118). -/
  | rdNakrsn
  /-- RD_ATTEMPTS (43_host_ops.md R119). -/
  | rdAttempts
  /-- RD_DEADLINE (43_host_ops.md R120). -/
  | rdDeadline
  /-- RD_TXP of word `w` of the TX window (43_host_ops.md R121). -/
  | rdTxp (w : BitVec 14)
  /-- RD_RXP of word `w` of the RX window (43_host_ops.md R122). -/
  | rdRxp (w : BitVec 14)
  /-- WR_REQ of HWDATA (43_host_ops.md R123). -/
  | wrReq (d : Word)
  /-- WR_TXLEN of HWDATA[15:0] (43_host_ops.md R124). -/
  | wrTxlen (d : BitVec 16)
  /-- WR_POLICY of HWDATA[25:0] (43_host_ops.md R125). -/
  | wrPolicy (d : BitVec 26)
  /-- WR_TXP of HWDATA to word `w` of the TX window (43_host_ops.md R126). -/
  | wrTxp (w : BitVec 14) (d : Word)
  /-- WR_RO of CFG0 (43_host_ops.md R127). -/
  | wrRoCfg0
  /-- WR_RO of CFG1 (43_host_ops.md R127). -/
  | wrRoCfg1
  /-- WR_RO of STATUS (43_host_ops.md R127). -/
  | wrRoStatus
  /-- WR_RO of RESULT (43_host_ops.md R127). -/
  | wrRoResult
  /-- WR_RO of NAKRSN (43_host_ops.md R127). -/
  | wrRoNakrsn
  /-- WR_RO of ATTEMPTS (43_host_ops.md R127). -/
  | wrRoAttempts
  /-- WR_RO of DEADLINE (43_host_ops.md R127). -/
  | wrRoDeadline
  /-- WR_RXP to word `w` of the RX window (43_host_ops.md R128). -/
  | wrRxp (w : BitVec 14)
  /-- BUS_ERROR: an access in direction `hwrite`, to `haddr`, of size `hsize`, that 30_encoding.md R67 maps nowhere
  (60_exceptions.md R145). -/
  | busError (hwrite : Bool) (haddr : HostAddr) (hsize : Nat)
  /-- EV_TX_ACCEPT (42_sequencer.md R94). -/
  | evTxAccept
  /-- EV_RX_BYTE of `b` (41_synchronizer.md R87, R88). -/
  | evRxByte (b : Byte)
  /-- EV_CH_CLOSED (42_sequencer.md R100). -/
  | evChClosed
  /-- EV_CH_ERROR (42_sequencer.md R100). -/
  | evChError
  /-- EV_TICK (42_sequencer.md R102). -/
  | evTick
deriving DecidableEq, Repr

end Sys2Proof
end

