-- ==== Sys2Proof/WellFormed.lean ====
section
/-! DEFINITION. Which operations exist in a block of dialect `cfg`: a window access needs a word index below WW
(30_encoding.md R67 step 3, R72), and a BUS_ERROR is an access that R67 maps nowhere (steps 1 and 4). Every other operation
is well formed with every operand. -/

namespace Sys2Proof

/-- The CSR page: the address is the offset of one of the eleven registers, 0x000 to 0x028 in steps of 4
(20_memory.md R45). -/
def inCsrPage (a : HostAddr) : Bool := a.toNat < 0x2C && a.toNat % 4 == 0

/-- The payload windows: 4*WW bytes from 0x10000 (TXP) and from 0x20000 (RXP) (20_memory.md R45). -/
def inPayloadWindow (cfg : Config) (a : HostAddr) : Bool :=
  (0x10000 ≤ a.toNat && a.toNat < 0x10000 + 4 * cfg.windowWords)
    || (0x20000 ≤ a.toNat && a.toNat < 0x20000 + 4 * cfg.windowWords)

/-- An access of size `hsize` to `a` is one that 30_encoding.md R67 sends to step 2 or step 3. -/
def isMapped (cfg : Config) (a : HostAddr) (hsize : Nat) : Bool :=
  hsize == 4 && a.toNat % 4 == 0 && (inCsrPage a || inPayloadWindow cfg a)

/-- The operation exists in a block of dialect `cfg`. -/
def WellFormed (cfg : Config) : Instr → Bool
  | .ctrlNop => true
  | .ctrlExecute => true
  | .ctrlAck => true
  | .ctrlReserved => true
  | .rdCfg0 => true
  | .rdCfg1 => true
  | .rdCtrl => true
  | .rdStatus => true
  | .rdReq => true
  | .rdTxlen => true
  | .rdPolicy => true
  | .rdResult => true
  | .rdNakrsn => true
  | .rdAttempts => true
  | .rdDeadline => true
  | .rdTxp w => w.toNat < cfg.windowWords
  | .rdRxp w => w.toNat < cfg.windowWords
  | .wrReq _ => true
  | .wrTxlen _ => true
  | .wrPolicy _ => true
  | .wrTxp w _ => w.toNat < cfg.windowWords
  | .wrRoCfg0 => true
  | .wrRoCfg1 => true
  | .wrRoStatus => true
  | .wrRoResult => true
  | .wrRoNakrsn => true
  | .wrRoAttempts => true
  | .wrRoDeadline => true
  | .wrRxp w => w.toNat < cfg.windowWords
  | .busError _ haddr hsize => !isMapped cfg haddr hsize
  | .evTxAccept => true
  | .evRxByte _ => true
  | .evChClosed => true
  | .evChError => true
  | .evTick => true

end Sys2Proof
end

