-- ==== Sys2Proof/Decode.lean ====
section
/-! DEFINITION. Decoding: from a host access to its operation (30_encoding.md R67, R68, R72), from an input vector to the
events it carries (R71), and from one encoding of spec/opcode_table.json to one operation, rejecting by name what is none.
After it the encoder, written from the same table. -/

namespace Sys2Proof

/-- The CSR registers (20_memory.md R45). -/
inductive Csr where
  | cfg0
  | cfg1
  | ctrl
  | status
  | req
  | txlen
  | policy
  | result
  | nakrsn
  | attempts
  | deadline
deriving DecidableEq, Repr

/-- The byte offset of a register in the CSR page (20_memory.md R45). -/
def Csr.offset : Csr → HostAddr
  | .cfg0 => 0x000#18
  | .cfg1 => 0x004#18
  | .ctrl => 0x008#18
  | .status => 0x00C#18
  | .req => 0x010#18
  | .txlen => 0x014#18
  | .policy => 0x018#18
  | .result => 0x01C#18
  | .nakrsn => 0x020#18
  | .attempts => 0x024#18
  | .deadline => 0x028#18

/-- The register at an address, if one is there (20_memory.md R45). -/
def csrAt (a : HostAddr) : Option Csr :=
  [Csr.cfg0, .cfg1, .ctrl, .status, .req, .txlen, .policy, .result, .nakrsn, .attempts, .deadline].find?
    (fun r => r.offset == a)

/-- The operation of a read of a register (30_encoding.md R72). -/
def decodeCsrRead : Csr → Instr
  | .cfg0 => .rdCfg0
  | .cfg1 => .rdCfg1
  | .ctrl => .rdCtrl
  | .status => .rdStatus
  | .req => .rdReq
  | .txlen => .rdTxlen
  | .policy => .rdPolicy
  | .result => .rdResult
  | .nakrsn => .rdNakrsn
  | .attempts => .rdAttempts
  | .deadline => .rdDeadline

/-- The command of a write of CTRL: OP is HWDATA[1:0], the other bits are ignored (30_encoding.md R68). -/
def decodeCtrl (d : Word) : Instr :=
  if d.extractLsb' 0 2 = 0#2 then .ctrlNop
  else if d.extractLsb' 0 2 = 1#2 then .ctrlExecute
  else if d.extractLsb' 0 2 = 2#2 then .ctrlAck
  else .ctrlReserved

/-- The operation of a write of `d` to a register, with the operand bits its rule names (30_encoding.md R72,
43_host_ops.md R123 to R127). -/
def decodeCsrWrite (d : Word) : Csr → Instr
  | .cfg0 => .wrRoCfg0
  | .cfg1 => .wrRoCfg1
  | .ctrl => decodeCtrl d
  | .status => .wrRoStatus
  | .req => .wrReq d
  | .txlen => .wrTxlen (d.extractLsb' 0 16)
  | .policy => .wrPolicy (d.extractLsb' 0 26)
  | .result => .wrRoResult
  | .nakrsn => .wrRoNakrsn
  | .attempts => .wrRoAttempts
  | .deadline => .wrRoDeadline

/-- The word index of an address inside a payload window, HADDR[15:2] (43_host_ops.md R121). -/
def windowIndex (a : HostAddr) : BitVec 14 := a.extractLsb' 2 14

/-- Host access decode, the four steps of 30_encoding.md R67 in their order. Total: what no step maps is a BUS_ERROR. -/
def decodeAccess (cfg : Config) (a : Access) : Instr :=
  if a.hsize ≠ 4 ∨ a.haddr.extractLsb' 0 2 ≠ 0#2 then .busError a.hwrite a.haddr a.hsize
  else
    match csrAt a.haddr with
    | some r => if a.hwrite then decodeCsrWrite a.hwdata r else decodeCsrRead r
    | none =>
      if 0x10000 ≤ a.haddr.toNat ∧ a.haddr.toNat < 0x10000 + 4 * cfg.windowWords then
        if a.hwrite then .wrTxp (windowIndex a.haddr) a.hwdata else .rdTxp (windowIndex a.haddr)
      else if 0x20000 ≤ a.haddr.toNat ∧ a.haddr.toNat < 0x20000 + 4 * cfg.windowWords then
        if a.hwrite then .wrRxp (windowIndex a.haddr) else .rdRxp (windowIndex a.haddr)
      else .busError a.hwrite a.haddr a.hsize

/-- The events of an input vector, in the order of 44_cycle.md R134: TX accept (bit 0), RX byte (bit 1, rx_data in bits
9:2), channel closed (bit 10), channel error (bit 11), tick (bit 12) (30_encoding.md R71). -/
def decodeEvents (iv : BitVec 13) : List Instr :=
  (if iv.getLsbD 0 then [.evTxAccept] else [])
    ++ (if iv.getLsbD 1 then [.evRxByte (iv.extractLsb' 2 8)] else [])
    ++ (if iv.getLsbD 10 then [.evChClosed] else [])
    ++ (if iv.getLsbD 11 then [.evChError] else [])
    ++ (if iv.getLsbD 12 then [.evTick] else [])

/-- The 20-bit word A of an access, `HWRITE<<19 | HADDR` with A[18] = 0, followed by HWDATA: the 52-bit key of
30_encoding.md R66 and R72. -/
def accessKey (hwrite : Bool) (haddr : HostAddr) (hwdata : Word) : BitVec 52 :=
  BitVec.ofBool hwrite ++ 0#1 ++ haddr ++ hwdata

/-- The access of a size and a key (30_encoding.md R66). -/
def accessOfKey (hsize : Nat) (key : BitVec 52) : Access :=
  { hwrite := key.getLsbD 51, haddr := key.extractLsb' 32 18, hsize := hsize, hwdata := key.extractLsb' 0 32 }

/-- Why an encoding is no single operation. -/
inductive DecodeError where
  /-- Bit 18 of A is set. It is always 0 (30_encoding.md R66), so that no access has such a key; the spec does not say what
  the key would mean, and the model calls it no operation (DESIGN CHOICE, log 13). -/
  | reservedBitOfA
  /-- An input vector with no event (30_encoding.md R71): a cycle in which the channel does nothing. -/
  | noEvent
  /-- An input vector with several events (30_encoding.md R71): several operations of one cycle. -/
  | severalEvents
deriving DecidableEq, Repr

/-- The one operation of an encoding, or the name of the reason why it is not one. -/
def decode (cfg : Config) : Encoding → Except DecodeError Instr
  | .hbus hsize key =>
    if key.getLsbD 50 then .error .reservedBitOfA else .ok (decodeAccess cfg (accessOfKey hsize key))
  | .iv v =>
    match decodeEvents v with
    | [] => .error .noEvent
    | [i] => .ok i
    | _ :: _ :: _ => .error .severalEvents

/-- The operations of one cycle in the order of 44_cycle.md R134: a host read (step 1), the events (steps 2 to 5), a host
write (step 6). -/
def cycleOps (cfg : Config) (c : Cycle) : List Instr :=
  match c.access with
  | none => decodeEvents c.iv
  | some a =>
    if a.hwrite then decodeEvents c.iv ++ [decodeAccess cfg a] else decodeAccess cfg a :: decodeEvents c.iv

/-- The encoding of a read of a register. -/
def encodeRead (r : Csr) : Encoding := .hbus 4 (accessKey false r.offset 0#32)

/-- The encoding of a write of `d` to a register. -/
def encodeWrite (r : Csr) (d : Word) : Encoding := .hbus 4 (accessKey true r.offset d)

/-- The address of word `w` of the window at `base`: HADDR[17:16] from `base`, HADDR[15:2] = w (spec/opcode_table.json,
rows RD_TXP, RD_RXP, WR_TXP, WR_RXP). -/
def windowAddr (base : BitVec 2) (w : BitVec 14) : HostAddr := base ++ w ++ 0#2

/-- The encoding of an operation (spec/opcode_table.json; 30_encoding.md R66, R68, R71). Bits that the rules ignore are 0. -/
def encode : Instr → Encoding
  | .ctrlNop => encodeWrite .ctrl 0#32
  | .ctrlExecute => encodeWrite .ctrl 1#32
  | .ctrlAck => encodeWrite .ctrl 2#32
  | .ctrlReserved => encodeWrite .ctrl 3#32
  | .rdCfg0 => encodeRead .cfg0
  | .rdCfg1 => encodeRead .cfg1
  | .rdCtrl => encodeRead .ctrl
  | .rdStatus => encodeRead .status
  | .rdReq => encodeRead .req
  | .rdTxlen => encodeRead .txlen
  | .rdPolicy => encodeRead .policy
  | .rdResult => encodeRead .result
  | .rdNakrsn => encodeRead .nakrsn
  | .rdAttempts => encodeRead .attempts
  | .rdDeadline => encodeRead .deadline
  | .rdTxp w => .hbus 4 (accessKey false (windowAddr 1#2 w) 0#32)
  | .rdRxp w => .hbus 4 (accessKey false (windowAddr 2#2 w) 0#32)
  | .wrReq d => encodeWrite .req d
  | .wrTxlen d => encodeWrite .txlen (d.setWidth 32)
  | .wrPolicy d => encodeWrite .policy (d.setWidth 32)
  | .wrTxp w d => .hbus 4 (accessKey true (windowAddr 1#2 w) d)
  | .wrRoCfg0 => encodeWrite .cfg0 0#32
  | .wrRoCfg1 => encodeWrite .cfg1 0#32
  | .wrRoStatus => encodeWrite .status 0#32
  | .wrRoResult => encodeWrite .result 0#32
  | .wrRoNakrsn => encodeWrite .nakrsn 0#32
  | .wrRoAttempts => encodeWrite .attempts 0#32
  | .wrRoDeadline => encodeWrite .deadline 0#32
  | .wrRxp w => .hbus 4 (accessKey true (windowAddr 2#2 w) 0#32)
  | .busError hwrite haddr hsize => .hbus hsize (accessKey hwrite haddr 0#32)
  | .evTxAccept => .iv 0x0001#13
  | .evRxByte b => .iv ((0#3 ++ b ++ 0#2 : BitVec 13) ||| 0x0002#13)
  | .evChClosed => .iv 0x0400#13
  | .evChError => .iv 0x0800#13
  | .evTick => .iv 0x1000#13

/-- The encoding that the bits `w` of a row of `nbits` bits stand for: a row of at most 16 bits is in format IV, a longer one
in format HBUS, where HSIZE is 4 (30_encoding.md R72). `none` where `w` has more bits than the format (log 10). -/
def encodingOfTableWord (nbits w : Nat) : Option Encoding :=
  if nbits ≤ 16 then if w < 2 ^ 13 then some (.iv (BitVec.ofNat 13 w)) else none
  else if w < 2 ^ 52 then some (.hbus 4 (BitVec.ofNat 52 w)) else none

/-- The operation that the decoder reads from the bits of a row of spec/opcode_table.json, in a block of profile REF
(log 10). -/
def decodeTableWord (nbits w : Nat) : Option Instr :=
  match encodingOfTableWord nbits w with
  | none => none
  | some e =>
    match decode Config.ref e with
    | .ok i => some i
    | .error _ => none

/-- The clock cycle in which an encoding is the only input (log 2). A key with bit 18 of A set stands for no access, as in
`decode`, and its cycle has none (DESIGN CHOICE, log 13). -/
def cycleOfEncoding : Encoding → Cycle
  | .iv v => { Cycle.quiet with iv := v }
  | .hbus hsize key =>
    if key.getLsbD 50 then Cycle.quiet else { Cycle.quiet with access := some (accessOfKey hsize key) }

/-- The clock cycle in which the bits of a row of spec/opcode_table.json are the only input; a cycle in which nothing happens
where they are no encoding (log 10). -/
def cycleOfTableWord (nbits w : Nat) : Cycle :=
  match encodingOfTableWord nbits w with
  | none => Cycle.quiet
  | some e => cycleOfEncoding e

end Sys2Proof
end

