-- ==== Sys2Proof/Machine/Codec.lean ====
section
/-! DEFINITION. The frame codec (40_frame_codec.md): byte-order helpers, checksums, the encoder and the decoder, each a pure
function of CFG and its arguments (40_frame_codec.md, introduction; 30_encoding.md R59 to R65). -/

namespace Sys2Proof.Machine

/-- `be16(v)` (00_scope.md R14). -/
def be16 (v : BitVec 16) : List Byte := [v.extractLsb' 8 8, v.extractLsb' 0 8]

/-- `le16(v)` (00_scope.md R14). -/
def le16 (v : BitVec 16) : List Byte := [v.extractLsb' 0 8, v.extractLsb' 8 8]

/-- `ord16(v, order)` (00_scope.md R14). -/
def ord16 (v : BitVec 16) : ByteOrder → List Byte
  | .be => be16 v
  | .le => le16 v

/-- `unord16([x, y], order)` (00_scope.md R14). -/
def unord16 (x y : Byte) : ByteOrder → BitVec 16
  | .be => x ++ y
  | .le => y ++ x

/-- `B[i..j)` (00_scope.md R14). -/
def slice (B : List Byte) (i j : Nat) : List Byte := (B.drop i).take (j - i)

/-- `B[i]`, a byte that the caller knows to be present; 0 past the end, which no rule reads (00_scope.md R14, log 8). -/
def byteAt (B : List Byte) (i : Nat) : Byte := B.getD i 0#8

/-- `xor8(D)` (40_frame_codec.md R75). -/
def xor8 (D : List Byte) : Byte := D.foldl (fun c b => c ^^^ b) 0#8

/-- The sum of the bytes as unsigned numbers (40_frame_codec.md R76, R77). -/
def byteSum : List Byte → Nat
  | [] => 0
  | b :: D => b.toNat + byteSum D

/-- `sum8(D)` (40_frame_codec.md R76). -/
def sum8 (D : List Byte) : Byte := BitVec.ofNat 8 (byteSum D)

/-- `sum16(D)` (40_frame_codec.md R77). -/
def sum16 (D : List Byte) : BitVec 16 := BitVec.ofNat 16 (byteSum D)

/-- One shift of the CRC register (40_frame_codec.md R78). -/
def crcShift (c : BitVec 16) : BitVec 16 := if c.getLsbD 0 then (c >>> 1) ^^^ 0xA001#16 else c >>> 1

/-- `n` shifts of the CRC register. -/
def crcShifts : Nat → BitVec 16 → BitVec 16
  | 0, c => c
  | n + 1, c => crcShifts n (crcShift c)

/-- The CRC register after one more byte (40_frame_codec.md R78). -/
def crcByte (c : BitVec 16) (b : Byte) : BitVec 16 := crcShifts 8 (c ^^^ b.setWidth 16)

/-- `crc16(D)` (40_frame_codec.md R78). -/
def crc16 (D : List Byte) : BitVec 16 := D.foldl crcByte 0xFFFF#16

/-- `checksum(D)`, the algorithm of CHK_ALG, widened to 16 bits (40_frame_codec.md R79). -/
def checksum (cfg : Config) (D : List Byte) : BitVec 16 :=
  match cfg.chkAlg with
  | .xor8 => (xor8 D).setWidth 16
  | .sum8 => (sum8 D).setWidth 16
  | .sum16 => sum16 D
  | .crc16 => crc16 D

/-- `chkbytes(c)` (30_encoding.md R62). -/
def chkBytes (cfg : Config) (c : BitVec 16) : List Byte :=
  if cfg.chkW = 1 then [c.extractLsb' 0 8] else ord16 c cfg.chkOrder

/-- `lenbytes(n)` (30_encoding.md R61). -/
def lenBytes (cfg : Config) (n : Nat) : List Byte :=
  if cfg.lenW = 1 then [BitVec.ofNat 8 n] else ord16 (BitVec.ofNat 16 n) cfg.lenOrder

/-- The bytes that the checksum covers: address, command, length, payload (30_encoding.md R62). -/
def covered (cfg : Config) (addr cmd : Byte) (payload : List Byte) : List Byte :=
  [addr, cmd] ++ lenBytes cfg payload.length ++ payload

/-- `encode(a, c, p)`, the frame of an address, a command and a payload (40_frame_codec.md R80, 30_encoding.md R59). -/
def encodeFrame (cfg : Config) (addr cmd : Byte) (payload : List Byte) : List Byte :=
  cfg.startBytes ++ covered cfg addr cmd payload ++ chkBytes cfg (checksum cfg (covered cfg addr cmd payload))

/-- The start of `B` could begin a frame (40_frame_codec.md R81): its first byte is START0 and, where START_LEN is 2, its
second byte is START1 or is not there yet. -/
def plausibleHead (cfg : Config) : List Byte → Bool
  | [] => false
  | [b] => b == cfg.start0
  | b :: c :: _ =>
    match cfg.start with
    | .one s0 => b == s0
    | .two s0 s1 => b == s0 && c == s1

/-- `plausible(B, i)` (40_frame_codec.md R81). -/
def plausible (cfg : Config) (B : List Byte) (i : Nat) : Bool := plausibleHead cfg (B.drop i)

/-- The search behind `nextMarker`: the first plausible index of a buffer whose part from index `i` on is given. -/
def scanMarker (cfg : Config) : List Byte → Nat → Nat
  | [], i => i
  | b :: B, i => if plausibleHead cfg (b :: B) then i else scanMarker cfg B (i + 1)

/-- `nextmarker(B, j)`: the first plausible index from `j` on, or the length of `B` (40_frame_codec.md R81). -/
def nextMarker (cfg : Config) (B : List Byte) (j : Nat) : Nat := scanMarker cfg (B.drop j) j

/-- A frame: address, command, payload (00_scope.md R16). -/
structure Frame where
  addr : Byte
  cmd : Byte
  payload : List Byte
deriving DecidableEq, Repr

/-- The reason of a corrupt decode (40_frame_codec.md R82). -/
inductive CorruptReason where
  | noStart
  | length
  | checksum
deriving DecidableEq, Repr

/-- The result of the decoder (00_scope.md R16, 40_frame_codec.md R82): `corrupt` says how many leading bytes to discard,
`ok` how many leading bytes the frame occupies. -/
inductive DecodeResult where
  | incomplete
  | corrupt (reason : CorruptReason) (k : Nat)
  | ok (frame : Frame) (n : Nat)
deriving DecidableEq, Repr

/-- The length field of a buffer that holds a whole header (30_encoding.md R61). -/
def lengthField (cfg : Config) (B : List Byte) : Nat :=
  if cfg.lenW = 1 then (byteAt B (cfg.startLen + 2)).toNat
  else (unord16 (byteAt B (cfg.startLen + 2)) (byteAt B (cfg.startLen + 3)) cfg.lenOrder).toNat

/-- The received checksum of a buffer that holds a whole frame of `T` bytes (30_encoding.md R62). -/
def receivedChecksum (cfg : Config) (B : List Byte) (T : Nat) : BitVec 16 :=
  if cfg.chkW = 1 then (byteAt B (T - 1)).setWidth 16
  else unord16 (byteAt B (T - 2)) (byteAt B (T - 1)) cfg.chkOrder

/-- `decode(B)` (40_frame_codec.md R82), its tests in the rule's order. -/
def decodeFrame (cfg : Config) (B : List Byte) : DecodeResult :=
  if B.length = 0 then .incomplete
  else if plausible cfg B 0 = false then .corrupt .noStart (nextMarker cfg B 1)
  else if B.length < cfg.hdrLen then .incomplete
  else if cfg.maxPayload < lengthField cfg B then .corrupt .length (nextMarker cfg B 1)
  else if B.length < cfg.frameLen (lengthField cfg B) then .incomplete
  else if checksum cfg (slice B cfg.startLen (cfg.hdrLen + lengthField cfg B))
      ≠ receivedChecksum cfg B (cfg.frameLen (lengthField cfg B)) then .corrupt .checksum (nextMarker cfg B 1)
  else
    .ok
      { addr := byteAt B cfg.startLen
        cmd := byteAt B (cfg.startLen + 1)
        payload := slice B cfg.hdrLen (cfg.hdrLen + lengthField cfg B) }
      (cfg.frameLen (lengthField cfg B))

end Sys2Proof.Machine
end

