-- ==== Sys2Proof/Machine/State.lean ====
section
/-! DEFINITION. The state of the block: the record of 10_state.md R18, field by field, with the reset values of R43; beside it
the model's own fields (the dialect CFG, the inputs still to come, the outputs of the last cycle, the reset count; log 1 to
log 5). Plain data throughout. -/

namespace Sys2Proof.Machine

/-- PHASE (10_state.md R18, R22). -/
inductive Phase where
  | idle
  | tx
  | rx
  | holdoff
deriving DecidableEq, Repr

/-- OUTCOME (10_state.md R24). The codes 6 and 7 are never produced and have no constructor (log 7). -/
inductive TxnOutcome where
  | none
  | success
  | nak
  | invalid
  | timeout
  | channel
deriving DecidableEq, Repr

/-- REASON, INV_RSN and FAIL_RSN (10_state.md R25). The codes 7 to 15 are never produced and have no constructor (log 7). -/
inductive Reason where
  | none
  | checksum
  | length
  | unexpected
  | closed
  | ioError
  | deadline
deriving DecidableEq, Repr

/-- ERR_CODE (10_state.md R26). The codes 6 to 15 are never produced and have no constructor (log 7). -/
inductive ErrCode where
  | none
  | payloadTooLarge
  | badTimeout
  | execWhileBusy
  | writeWhileBusy
  | reservedOp
deriving DecidableEq, Repr

/-- A payload memory: (index, byte) pairs, indexes strictly rising. An index with no entry has not been written since
reset; it holds an unspecified byte, so no entry can equal what an unlisted index reads as (10_state.md R39, R40, log 4). -/
abbrev Memory := List Host.Cell

/-- The outputs of one cycle (44_cycle.md R134, R135; 30_encoding.md R66, R69). The model's own field (log 3). -/
structure Outputs where
  txValid : Bool
  txData : Byte
  irq : Bool
  hrdata : Word
  busErr : Bool
deriving DecidableEq, Repr

/-- The outputs of a reset cycle (70_reset_and_hazards.md R156). -/
def Outputs.zero : Outputs := { txValid := false, txData := 0#8, irq := false, hrdata := 0#32, busErr := false }

/-- The state of the block (10_state.md R18) with the model's own fields. -/
structure State where
  /-- CFG, the dialect: a parameter, changed by no step (00_scope.md R8, R10; log 1). The model's own field. -/
  cfg : Config
  /-- PHASE. -/
  phase : Phase
  /-- DONE. -/
  done : Bool
  /-- ERR. -/
  err : Bool
  /-- ERR_CODE. -/
  errCode : ErrCode
  /-- OUTCOME. -/
  outcome : TxnOutcome
  /-- REASON. -/
  reason : Reason
  /-- REQ: ADDR, CMD, RSP_CMD, NAK_CMD from the low byte up (R31). -/
  req : BitVec 32
  /-- TX_LEN. -/
  txLen : BitVec 16
  /-- POLICY: TIMEOUT 15:0, MAX_RETRIES 23:16, RETRY_ON_TIMEOUT 24, RETRY_ON_CHANNEL 25 (R33). -/
  policy : BitVec 26
  /-- RSP_ADDR. -/
  rspAddr : Byte
  /-- RSP_CMD_RX. -/
  rspCmdRx : Byte
  /-- RX_LEN. -/
  rxLen : BitVec 16
  /-- NAK_CODE. -/
  nakCode : Byte
  /-- NAK_VALID. -/
  nakValid : Bool
  /-- ATTEMPTS. -/
  attempts : BitVec 9
  /-- DL. -/
  dl : BitVec 16
  /-- TXIDX (hidden, R42). -/
  txIdx : BitVec 17
  /-- RXBUF (hidden, R42), index 0 the oldest byte (R41). -/
  rxBuf : List Byte
  /-- INV_SEEN (hidden, R42). -/
  invSeen : Bool
  /-- INV_RSN (hidden, R42). -/
  invRsn : Reason
  /-- FAIL_RSN (hidden, R42). -/
  failRsn : Reason
  /-- TXP. -/
  txp : Memory
  /-- RXP. -/
  rxp : Memory
  /-- How many resets there have been; the free values of unwritten payload bytes depend on it (log 4, log 5). The model's
  own field. -/
  epoch : Nat
  /-- The outputs of the last cycle (log 3). The model's own field. -/
  out : Outputs
  /-- The inputs of the cycles to come, the next one first (44_cycle.md R133; log 2). The model's own field. -/
  inputs : List Cycle
deriving DecidableEq, Repr

/-- The state right after reset (10_state.md R43, 70_reset_and_hazards.md R156), in a block of profile REF (log 1), with no
input pending (log 2). -/
def State.reset : State :=
  { cfg := Config.ref
    phase := .idle
    done := false
    err := false
    errCode := .none
    outcome := .none
    reason := .none
    req := 0#32
    txLen := 0#16
    policy := 0x3000000#26
    rspAddr := 0#8
    rspCmdRx := 0#8
    rxLen := 0#16
    nakCode := 0#8
    nakValid := false
    attempts := 0#9
    dl := 0#16
    txIdx := 0#17
    rxBuf := []
    invSeen := false
    invRsn := .none
    failRsn := .none
    txp := []
    rxp := []
    epoch := 0
    out := Outputs.zero
    inputs := [] }

/-- Why the block stops: nothing stops it. It has no trap, and contract errors, bus errors and failed transactions are
recorded or answered in a next state (60_exceptions.md R140, R142, R145, R148). No constructor: safe and complete. -/
inductive Fault where
deriving DecidableEq, Repr

/-- Why the model gives an operation no meaning. -/
inductive Refusal where
  /-- Raised by an arm of `exec` for an operation that has no meaning yet; no arm raises it. Safe: nothing can be proved of
  what a refused operation does. -/
  | notModelled (mnemonic : String)
deriving DecidableEq, Repr

/-- What an operation answers. -/
abbrev Answer := Host.Outcome State Fault Refusal

end Sys2Proof.Machine
end

