-- ==== Sys2Proof/Machine/Operands.lean ====
section
/-! DEFINITION. The fields of the registers that hold operands: REQ (10_state.md R31) and POLICY (R33), and the bytes of a
host word (20_memory.md R46). -/

namespace Sys2Proof.Machine

/-- REQ.ADDR (10_state.md R31). -/
def State.reqAddr (s : State) : Byte := s.req.extractLsb' 0 8

/-- REQ.CMD (10_state.md R31). -/
def State.reqCmd (s : State) : Byte := s.req.extractLsb' 8 8

/-- REQ.RSP_CMD (10_state.md R31). -/
def State.reqRspCmd (s : State) : Byte := s.req.extractLsb' 16 8

/-- REQ.NAK_CMD (10_state.md R31). -/
def State.reqNakCmd (s : State) : Byte := s.req.extractLsb' 24 8

/-- POLICY.TIMEOUT (10_state.md R33). -/
def State.timeout (s : State) : BitVec 16 := s.policy.extractLsb' 0 16

/-- POLICY.MAX_RETRIES (10_state.md R33). -/
def State.maxRetries (s : State) : BitVec 8 := s.policy.extractLsb' 16 8

/-- POLICY.RETRY_ON_TIMEOUT (10_state.md R33). -/
def State.retryOnTimeout (s : State) : Bool := s.policy.getLsbD 24

/-- POLICY.RETRY_ON_CHANNEL (10_state.md R33). -/
def State.retryOnChannel (s : State) : Bool := s.policy.getLsbD 25

/-- Byte `k` of a host word, `d[8k+7:8k]` (20_memory.md R46). -/
def wordByte (d : Word) (k : Nat) : Byte := d.extractLsb' (8 * k) 8

/-- The host word of four bytes, the first in bits 7:0 (20_memory.md R46). -/
def wordOfBytes (b0 b1 b2 b3 : Byte) : Word := b3 ++ b2 ++ b1 ++ b0

end Sys2Proof.Machine
end

