-- ==== Sys2Proof/Machine/Flags.lean ====
section
/-! DEFINITION. The status flags and the values of the read-only registers: BUSY and irq (10_state.md R22, 60_exceptions.md
R147), the codes of the enumerations (10_state.md R22, R24 to R26), and the words that reads of CFG0, CFG1, STATUS, RESULT,
NAKRSN, ATTEMPTS and DEADLINE return (10_state.md R27 to R37). -/

namespace Sys2Proof.Machine

/-- The 2-bit code of PHASE (10_state.md R18). -/
def Phase.code : Phase → BitVec 2
  | .idle => 0#2
  | .tx => 1#2
  | .rx => 2#2
  | .holdoff => 3#2

/-- The 3-bit code of OUTCOME (10_state.md R24). -/
def TxnOutcome.code : TxnOutcome → BitVec 3
  | .none => 0#3
  | .success => 1#3
  | .nak => 2#3
  | .invalid => 3#3
  | .timeout => 4#3
  | .channel => 5#3

/-- The 4-bit code of REASON (10_state.md R25). -/
def Reason.code : Reason → BitVec 4
  | .none => 0#4
  | .checksum => 1#4
  | .length => 2#4
  | .unexpected => 3#4
  | .closed => 4#4
  | .ioError => 5#4
  | .deadline => 6#4

/-- The 4-bit code of ERR_CODE (10_state.md R26). -/
def ErrCode.code : ErrCode → BitVec 4
  | .none => 0#4
  | .payloadTooLarge => 1#4
  | .badTimeout => 2#4
  | .execWhileBusy => 3#4
  | .writeWhileBusy => 4#4
  | .reservedOp => 5#4

/-- BUSY: PHASE is not IDLE (10_state.md R22). -/
def State.busy (s : State) : Bool := s.phase ≠ .idle

/-- irq: DONE or ERR (60_exceptions.md R147). -/
def State.irqLevel (s : State) : Bool := s.done || s.err

/-- A flag as a 32-bit number. -/
def flagWord (b : Bool) : Word := (BitVec.ofBool b).setWidth 32

/-- The value of CFG0 (10_state.md R27). -/
def cfg0Word (cfg : Config) : Word :=
  BitVec.ofNat 32 cfg.startLen ||| (BitVec.ofNat 32 cfg.lenW <<< 2) ||| (BitVec.ofNat 32 cfg.lenOrder.code <<< 4)
    ||| (BitVec.ofNat 32 cfg.chkAlg.code <<< 5) ||| (BitVec.ofNat 32 cfg.chkOrder.code <<< 8)
    ||| (BitVec.ofNat 32 cfg.chkW <<< 9) ||| (cfg.start0.setWidth 32 <<< 16) ||| (cfg.start1.setWidth 32 <<< 24)

/-- The value of CFG1 (10_state.md R28). -/
def cfg1Word (cfg : Config) : Word := BitVec.ofNat 32 cfg.maxPayload

/-- The value of STATUS (10_state.md R30). -/
def State.statusWord (s : State) : Word :=
  flagWord s.busy ||| (flagWord s.done <<< 1) ||| (flagWord s.err <<< 2) ||| (s.errCode.code.setWidth 32 <<< 4)
    ||| (s.outcome.code.setWidth 32 <<< 8) ||| (s.phase.code.setWidth 32 <<< 12) ||| (s.reason.code.setWidth 32 <<< 16)

/-- The value of RESULT (10_state.md R34). -/
def State.resultWord (s : State) : Word :=
  s.rspAddr.setWidth 32 ||| (s.rspCmdRx.setWidth 32 <<< 8) ||| (s.rxLen.setWidth 32 <<< 16)

/-- The value of NAKRSN (10_state.md R35). -/
def State.nakrsnWord (s : State) : Word := s.nakCode.setWidth 32 ||| (flagWord s.nakValid <<< 8)

/-- The value of ATTEMPTS (10_state.md R36). -/
def State.attemptsWord (s : State) : Word := s.attempts.setWidth 32

/-- The value of DEADLINE (10_state.md R37). -/
def State.deadlineWord (s : State) : Word := s.dl.setWidth 32

/-- The value of TXLEN (10_state.md R32). -/
def State.txlenWord (s : State) : Word := s.txLen.setWidth 32

/-- The value of POLICY (10_state.md R33). -/
def State.policyWord (s : State) : Word := s.policy.setWidth 32

end Sys2Proof.Machine
end

