-- ==== Sys2Proof/Machine/Ops.lean ====
section
/-! DEFINITION. The operations that the meanings share: the payload memories and their windows (20_memory.md R46), the
answers of the host bus (43_host_ops.md R108, R109, 60_exceptions.md R145), recording a contract error and ending its
handling (60_exceptions.md R142, R149), the request frame (30_encoding.md R70), the outputs of a cycle (44_cycle.md R134
step 1) and reset (70_reset_and_hazards.md R156). The block takes no exception in the processor's sense: what R148 calls the
entry of an event is `setErr` here and `finish` in Machine/Sequencer.lean, and the return is `acknowledge`. -/

namespace Sys2Proof.Machine

/-- The byte that has been written at an index of a payload memory, if any. -/
def Memory.read? : Memory → Nat → Option Byte
  | [], _ => none
  | (a, b) :: m, i => if a = i then some b else Memory.read? m i

/-- MemWrite of one byte (00_scope.md R15): the entry of index `i` is made or replaced, in its place. -/
def Memory.write : Memory → Nat → Byte → Memory
  | [], i, v => [(i, v)]
  | (a, b) :: m, i, v =>
    if i < a then (i, v) :: (a, b) :: m
    else if i = a then (i, v) :: m
    else (a, b) :: Memory.write m i v

/-- MemWrite of consecutive bytes from index `i` on (42_sequencer.md R95, `record`). -/
def Memory.writeBytes : Memory → Nat → List Byte → Memory
  | m, _, [] => m
  | m, i, b :: bs => Memory.writeBytes (Memory.write m i b) (i + 1) bs

/-- The canonical form: indexes strictly rising. An unlisted index holds an unspecified byte, so no entry can repeat it
(log 4). -/
def Memory.wf : Memory → Bool
  | [] => true
  | [_] => true
  | (a, _) :: (c, d) :: m => a < c && Memory.wf ((c, d) :: m)

/-- MemRead(TXP, i) (00_scope.md R15): the byte written since reset, else an unspecified byte
(93_implementation_defined.md I1, log 4). -/
def State.txpByte (s : State) (i : Nat) : Byte :=
  (Memory.read? s.txp i).getD (Config.unwrittenByte .txp s.epoch i)

/-- MemRead(RXP, i) (00_scope.md R15): the byte written since reset, else an unspecified byte
(93_implementation_defined.md I1, log 4). -/
def State.rxpByte (s : State) (i : Nat) : Byte :=
  (Memory.read? s.rxp i).getD (Config.unwrittenByte .rxp s.epoch i)

/-- `byteval(win, i)`: bytes at MAX_PAYLOAD and above read 0 (20_memory.md R46). -/
def windowByte (cfg : Config) (mem : Nat → Byte) (i : Nat) : Byte := if i < cfg.maxPayload then mem i else 0#8

/-- `read(win, w)` (20_memory.md R46). -/
def readWindow (cfg : Config) (mem : Nat → Byte) (w : Nat) : Word :=
  wordOfBytes (windowByte cfg mem (4 * w)) (windowByte cfg mem (4 * w + 1)) (windowByte cfg mem (4 * w + 2))
    (windowByte cfg mem (4 * w + 3))

/-- The write of byte `k` of a host word to its place in a window; an index at MAX_PAYLOAD or above is ignored
(20_memory.md R46). -/
def writeWindowByte (cfg : Config) (w : Nat) (d : Word) (m : Memory) (k : Nat) : Memory :=
  if 4 * w + k < cfg.maxPayload then Memory.write m (4 * w + k) (wordByte d k) else m

/-- `write(TXP, w, d)` (20_memory.md R46). -/
def writeWindow (cfg : Config) (m : Memory) (w : Nat) (d : Word) : Memory :=
  [0, 1, 2, 3].foldl (writeWindowByte cfg w d) m

/-- A host read answered with a value and no bus error; it writes no state (43_host_ops.md R108). -/
def answerRead (v : Word) (s : State) : State := { s with out := { s.out with hrdata := v, busErr := false } }

/-- A host write answered without a bus error (43_host_ops.md R109). -/
def answerWrite (s : State) : State := { s with out := { s.out with busErr := false } }

/-- `bus_error()`: bus_err is 1, a read returns 0, no state is written (60_exceptions.md R145). -/
def busErrorAnswer (hwrite : Bool) (s : State) : State :=
  { s with out := { s.out with hrdata := if hwrite then s.out.hrdata else 0#32, busErr := true } }

/-- `set_err(code)`: a contract error is recorded, and nothing else is written (60_exceptions.md R142). -/
def setErr (code : ErrCode) (s : State) : State := { s with err := true, errCode := code }

/-- The end of the handling of an event: DONE, ERR and ERR_CODE are cleared (43_host_ops.md R131, 60_exceptions.md R149). -/
def acknowledge (s : State) : State := { s with done := false, err := false, errCode := .none }

/-- A write of a request register: dropped and recorded while BUSY, else carried out (10_state.md R38, 43_host_ops.md
R123 to R126). -/
def guardedWrite (write : State → State) (s : State) : State :=
  answerWrite (if s.busy then setErr .writeWhileBusy s else write s)

/-- The request payload: TXP bytes 0 to TX_LEN - 1 (30_encoding.md R70). -/
def State.txPayload (s : State) : List Byte := (List.range s.txLen.toNat).map s.txpByte

/-- `txframe(S)` (30_encoding.md R70). -/
def State.txFrame (s : State) : List Byte := encodeFrame s.cfg s.reqAddr s.reqCmd s.txPayload

/-- The outputs that a cycle draws from its start state: tx_valid, tx_data and irq; HRDATA and bus_err are 0 until an access
of the cycle answers (44_cycle.md R134 step 1, R135; 30_encoding.md R69). -/
def cycleOutputs (s : State) : Outputs :=
  { txValid := s.phase == .tx
    txData := if s.phase = .tx then byteAt s.txFrame s.txIdx.toNat else 0#8
    irq := s.irqLevel
    hrdata := 0#32
    busErr := false }

/-- The start of a cycle: its outputs are driven (44_cycle.md R134 step 1). -/
def beginCycle (s : State) : State := { s with out := cycleOutputs s }

/-- `reset()`: every field takes its reset value, the outputs are 0, and the payload memories are unspecified again
(70_reset_and_hazards.md R156, 10_state.md R43, log 5). CFG and the inputs still to come are not the block's to reset. -/
def applyReset (s : State) : State :=
  { State.reset with cfg := s.cfg, epoch := s.epoch + 1, inputs := s.inputs }

end Sys2Proof.Machine
end

