-- ==== Sys2Proof/Machine/BusErrors.lean ====
section
/-! DEFINITION. BUS_ERROR (60_exceptions.md section 3). -/

namespace Sys2Proof.Machine

/-- BUS_ERROR (60_exceptions.md R145): it depends on the access only, and is not recorded. -/
def execBusError (hwrite : Bool) (_haddr : HostAddr) (_hsize : Nat) (s : State) : Answer :=
  .next (busErrorAnswer hwrite s)

end Sys2Proof.Machine
end

