-- ==== Sys2Proof/Machine/Sequencer.lean ====
section
/-! DEFINITION. The transaction sequencer (42_sequencer.md): attempts, classification of a received frame, the end of a
transaction, failure and retry, channel failure and the deadline. -/

namespace Sys2Proof.Machine

/-- `attempt_start()` (42_sequencer.md R93). -/
def attemptStart (s : State) : State :=
  { s with
    attempts := s.attempts + 1#9
    phase := .tx
    txIdx := 0#17
    dl := s.timeout
    rxBuf := []
    invSeen := false
    invRsn := .none
    failRsn := .none }

/-- `exec_start()` (42_sequencer.md R92). -/
def execStart (s : State) : State :=
  attemptStart
    { s with
      done := false
      outcome := .none
      reason := .none
      rspAddr := 0#8
      rspCmdRx := 0#8
      rxLen := 0#16
      nakCode := 0#8
      nakValid := false
      attempts := 0#9 }

/-- `tx_accept()` in phase TX (42_sequencer.md R94). -/
def txAccept (s : State) : State :=
  { s with
    txIdx := s.txIdx + 1#17
    phase := if (s.txIdx + 1#17).toNat = s.cfg.frameLen s.txLen.toNat then .rx else s.phase }

/-- `finish(o, r)` (42_sequencer.md R97). -/
def finish (o : TxnOutcome) (r : Reason) (s : State) : State :=
  { s with
    phase := .idle
    done := true
    outcome := o
    reason := r
    rxBuf := []
    txIdx := 0#17
    dl := 0#16
    invSeen := false
    invRsn := .none
    failRsn := .none }

/-- `record(f)` (42_sequencer.md R95). -/
def record (f : Frame) (s : State) : State :=
  { s with
    rspAddr := f.addr
    rspCmdRx := f.cmd
    rxLen := BitVec.ofNat 16 f.payload.length
    rxp := Memory.writeBytes s.rxp 0 f.payload }

/-- The NAK reason of a NAK frame: its first payload byte, if it has one (42_sequencer.md R95). -/
def recordNak (f : Frame) (s : State) : State :=
  { s with
    nakValid := !f.payload.isEmpty
    nakCode := f.payload.headD 0#8 }

/-- What the synchronizer does after `classify` (42_sequencer.md R95). -/
inductive Verdict where
  | terminal
  | goOn
deriving DecidableEq, Repr

/-- `classify(f)`: the NAK test comes first (42_sequencer.md R95). -/
def classify (f : Frame) (s : State) : Verdict × State :=
  if f.cmd = s.reqNakCmd then (.terminal, finish .nak .none (recordNak f (record f s)))
  else if f.cmd = s.reqRspCmd then (.terminal, finish .success .none (record f s))
  else (.goOn, { s with invSeen := true, invRsn := .unexpected })

/-- `eligible(K)`: only a timeout, an invalid message or a channel failure can be retried (42_sequencer.md R98). -/
def eligible (s : State) : TxnOutcome → Bool
  | .none => false
  | .success => false
  | .nak => false
  | .invalid => s.retryOnChannel
  | .timeout => s.retryOnTimeout
  | .channel => s.retryOnChannel

/-- `fail(K, r)` (42_sequencer.md R99). -/
def fail (K : TxnOutcome) (r : Reason) (s : State) : State :=
  if eligible s K ∧ s.attempts.toNat ≤ s.maxRetries.toNat then attemptStart s else finish K r s

/-- `ch_fail` with the reason it records (42_sequencer.md R100). -/
def chFail (r : Reason) (s : State) : State := { s with phase := .holdoff, failRsn := r, rxBuf := [] }

/-- `ch_fail` where the phase allows it: it does nothing in IDLE and in HOLDOFF (42_sequencer.md R100). -/
def chFailIfActive (r : Reason) (s : State) : State :=
  match s.phase with
  | .idle => s
  | .tx => chFail r s
  | .rx => chFail r s
  | .holdoff => s

/-- `expire()` (42_sequencer.md R103). In IDLE it is never called (R102). -/
def expire (s : State) : State :=
  match s.phase with
  | .idle => s
  | .tx => fail .timeout .deadline s
  | .rx => if s.invSeen then fail .invalid s.invRsn s else fail .timeout .deadline s
  | .holdoff => fail .channel s.failRsn s

/-- DL is decremented (42_sequencer.md R102). -/
def countDown (s : State) : State := { s with dl := s.dl - 1#16 }

/-- `tick()` in a phase other than IDLE (42_sequencer.md R102). -/
def tick (s : State) : State := if s.dl - 1#16 = 0#16 then expire (countDown s) else countDown s

end Sys2Proof.Machine
end

