-- ==== Sys2Proof/Machine/Synchronizer.lean ====
section
/-! DEFINITION. The frame synchronizer (41_synchronizer.md): the per-byte operation and its decode loop. -/

namespace Sys2Proof.Machine

/-- The reason that INV_RSN takes for a corrupt frame (41_synchronizer.md R88). -/
def CorruptReason.toReason : CorruptReason → Reason
  | .noStart => .none
  | .length => .length
  | .checksum => .checksum

/-- The first `k` bytes of RXBUF are discarded (41_synchronizer.md R88). -/
def dropRx (k : Nat) (s : State) : State := { s with rxBuf := s.rxBuf.drop k }

/-- A corrupt frame is recorded in INV_SEEN and INV_RSN (41_synchronizer.md R88). -/
def markInvalid (r : Reason) (s : State) : State := { s with invSeen := true, invRsn := r }

/-- At most `fuel` turns of the loop of `rx_byte` (41_synchronizer.md R88). -/
def rxLoop : Nat → State → State
  | 0, s => s
  | fuel + 1, s =>
    match decodeFrame s.cfg s.rxBuf with
    | .incomplete => s
    | .corrupt .noStart k => rxLoop fuel (dropRx k s)
    | .corrupt .length k => rxLoop fuel (dropRx k (markInvalid .length s))
    | .corrupt .checksum k => rxLoop fuel (dropRx k (markInvalid .checksum s))
    | .ok f n =>
      match classify f s with
      | (.terminal, t) => t
      | (.goOn, t) => rxLoop fuel (dropRx n t)

/-- The loop of `rx_byte`, run to its end: every turn that does not stop removes a byte, so one turn more than RXBUF has
bytes is enough (41_synchronizer.md R88, 70_reset_and_hazards.md R168, log 8). -/
def rxScan (s : State) : State := rxLoop (s.rxBuf.length + 1) s

/-- A byte is appended to RXBUF (41_synchronizer.md R88). -/
def appendRx (b : Byte) (s : State) : State := { s with rxBuf := s.rxBuf ++ [b] }

/-- `rx_byte(b)` in phase RX (41_synchronizer.md R88). -/
def rxByte (b : Byte) (s : State) : State := rxScan (appendRx b s)

end Sys2Proof.Machine
end

