-- ==== Sys2Proof/Machine/ChannelEvents.lean ====
section
/-! DEFINITION. The channel and time-base events (41_synchronizer.md, 42_sequencer.md). Each tests PHASE as the earlier
sub-steps of its cycle left it (44_cycle.md R134). -/

namespace Sys2Proof.Machine

/-- EV_TX_ACCEPT (42_sequencer.md R94): it does nothing unless PHASE is TX. -/
def execEvTxAccept (s : State) : Answer :=
  match s.phase with
  | .idle => .next s
  | .tx => .next (txAccept s)
  | .rx => .next s
  | .holdoff => .next s

/-- EV_RX_BYTE (41_synchronizer.md R88); the byte is discarded unless PHASE is RX (R87). -/
def execEvRxByte (b : Byte) (s : State) : Answer :=
  match s.phase with
  | .idle => .next s
  | .tx => .next s
  | .rx => .next (rxByte b s)
  | .holdoff => .next s

/-- EV_CH_CLOSED (42_sequencer.md R100). Where the same cycle reports an I/O error too, this event comes first, so that
CLOSED is recorded. -/
def execEvChClosed (s : State) : Answer := .next (chFailIfActive .closed s)

/-- EV_CH_ERROR (42_sequencer.md R100). -/
def execEvChError (s : State) : Answer := .next (chFailIfActive .ioError s)

/-- EV_TICK (42_sequencer.md R102): it does nothing while PHASE is IDLE. -/
def execEvTick (s : State) : Answer :=
  match s.phase with
  | .idle => .next s
  | .tx => .next (tick s)
  | .rx => .next (tick s)
  | .holdoff => .next (tick s)

end Sys2Proof.Machine
end

