-- ==== Sys2Proof/Machine/Control.lean ====
section
/-! DEFINITION. The control commands, writes of CTRL (43_host_ops.md section 4). The write is applied to the state that the
channel, failure and tick sub-steps of its cycle left (43_host_ops.md R109). -/

namespace Sys2Proof.Machine

/-- CTRL_NOP (43_host_ops.md R129): nothing, whether busy or not. -/
def execCtrlNop (s : State) : Answer := .next (answerWrite s)

/-- The checks of EXECUTE in their order, and the start of the transaction (43_host_ops.md R130, 60_exceptions.md R146). -/
def executeCommand (s : State) : State :=
  if s.busy then setErr .execWhileBusy s
  else if s.cfg.maxPayload < s.txLen.toNat then setErr .payloadTooLarge s
  else if s.timeout = 0#16 then setErr .badTimeout s
  else execStart s

/-- CTRL_EXECUTE (43_host_ops.md R130). -/
def execCtrlExecute (s : State) : Answer := .next (answerWrite (executeCommand s))

/-- CTRL_ACK (43_host_ops.md R131). -/
def execCtrlAck (s : State) : Answer := .next (answerWrite (acknowledge s))

/-- CTRL_RESERVED (43_host_ops.md R132). -/
def execCtrlReserved (s : State) : Answer := .next (answerWrite (setErr .reservedOp s))

end Sys2Proof.Machine
end

