-- ==== Sys2Proof/Machine/HostReads.lean ====
section
/-! DEFINITION. The register and window reads (43_host_ops.md section 2). A read answers on HRDATA and writes no state. -/

namespace Sys2Proof.Machine

/-- RD_CFG0 (43_host_ops.md R110). -/
def execRdCfg0 (s : State) : Answer := .next (answerRead (cfg0Word s.cfg) s)

/-- RD_CFG1 (43_host_ops.md R111). -/
def execRdCfg1 (s : State) : Answer := .next (answerRead (cfg1Word s.cfg) s)

/-- RD_CTRL: CTRL holds no value (43_host_ops.md R112). -/
def execRdCtrl (s : State) : Answer := .next (answerRead 0#32 s)

/-- RD_STATUS (43_host_ops.md R113). -/
def execRdStatus (s : State) : Answer := .next (answerRead s.statusWord s)

/-- RD_REQ (43_host_ops.md R114). -/
def execRdReq (s : State) : Answer := .next (answerRead s.req s)

/-- RD_TXLEN (43_host_ops.md R115). -/
def execRdTxlen (s : State) : Answer := .next (answerRead s.txlenWord s)

/-- RD_POLICY (43_host_ops.md R116). -/
def execRdPolicy (s : State) : Answer := .next (answerRead s.policyWord s)

/-- RD_RESULT (43_host_ops.md R117). -/
def execRdResult (s : State) : Answer := .next (answerRead s.resultWord s)

/-- RD_NAKRSN (43_host_ops.md R118). -/
def execRdNakrsn (s : State) : Answer := .next (answerRead s.nakrsnWord s)

/-- RD_ATTEMPTS (43_host_ops.md R119). -/
def execRdAttempts (s : State) : Answer := .next (answerRead s.attemptsWord s)

/-- RD_DEADLINE (43_host_ops.md R120). -/
def execRdDeadline (s : State) : Answer := .next (answerRead s.deadlineWord s)

/-- A read of word `w` of a payload window; a word index at WW or above is a bus error (30_encoding.md R67 step 4). -/
def readPayloadWindow (mem : Nat → Byte) (w : BitVec 14) (s : State) : State :=
  if w.toNat < s.cfg.windowWords then answerRead (readWindow s.cfg mem w.toNat) s else busErrorAnswer false s

/-- RD_TXP (43_host_ops.md R121); allowed while BUSY. -/
def execRdTxp (w : BitVec 14) (s : State) : Answer := .next (readPayloadWindow s.txpByte w s)

/-- RD_RXP (43_host_ops.md R122). -/
def execRdRxp (w : BitVec 14) (s : State) : Answer := .next (readPayloadWindow s.rxpByte w s)

end Sys2Proof.Machine
end

