-- ==== Sys2Proof/Machine/HostWrites.lean ====
section
/-! DEFINITION. The register and window writes (43_host_ops.md section 3). The write is applied to the state that the channel,
failure and tick sub-steps of its cycle left (43_host_ops.md R109). -/

namespace Sys2Proof.Machine

/-- WR_REQ (43_host_ops.md R123). -/
def execWrReq (d : Word) (s : State) : Answer := .next (guardedWrite (fun s => { s with req := d }) s)

/-- WR_TXLEN (43_host_ops.md R124); a value above MAX_PAYLOAD is stored without error. -/
def execWrTxlen (d : BitVec 16) (s : State) : Answer := .next (guardedWrite (fun s => { s with txLen := d }) s)

/-- WR_POLICY (43_host_ops.md R125); TIMEOUT = 0 is stored without error. -/
def execWrPolicy (d : BitVec 26) (s : State) : Answer := .next (guardedWrite (fun s => { s with policy := d }) s)

/-- WR_TXP (43_host_ops.md R126); a word index at WW or above is a bus error (30_encoding.md R67 step 4). -/
def execWrTxp (w : BitVec 14) (d : Word) (s : State) : Answer :=
  .next
    (if w.toNat < s.cfg.windowWords then
      guardedWrite (fun s => { s with txp := writeWindow s.cfg s.txp w.toNat d }) s
    else busErrorAnswer true s)

/-- A write of a read-only register or window changes nothing and records nothing (20_memory.md R52). -/
def ignoreWrite (s : State) : Answer := .next (answerWrite s)

/-- WR_RO of CFG0 (43_host_ops.md R127). -/
def execWrRoCfg0 (s : State) : Answer := ignoreWrite s

/-- WR_RO of CFG1 (43_host_ops.md R127). -/
def execWrRoCfg1 (s : State) : Answer := ignoreWrite s

/-- WR_RO of STATUS (43_host_ops.md R127): DONE is cleared only by ACK or EXECUTE. -/
def execWrRoStatus (s : State) : Answer := ignoreWrite s

/-- WR_RO of RESULT (43_host_ops.md R127). -/
def execWrRoResult (s : State) : Answer := ignoreWrite s

/-- WR_RO of NAKRSN (43_host_ops.md R127). -/
def execWrRoNakrsn (s : State) : Answer := ignoreWrite s

/-- WR_RO of ATTEMPTS (43_host_ops.md R127). -/
def execWrRoAttempts (s : State) : Answer := ignoreWrite s

/-- WR_RO of DEADLINE (43_host_ops.md R127). -/
def execWrRoDeadline (s : State) : Answer := ignoreWrite s

/-- WR_RXP (43_host_ops.md R128); a word index at WW or above is a bus error (30_encoding.md R67 step 4). -/
def execWrRxp (w : BitVec 14) (s : State) : Answer :=
  if w.toNat < s.cfg.windowWords then ignoreWrite s else .next (busErrorAnswer true s)

end Sys2Proof.Machine
end

