-- ==== Sys2Proof/Machine/Dispatch.lean ====
section
/-! DEFINITION. The meaning of each operation, one arm per constructor of Instr. -/

namespace Sys2Proof.Machine

def exec (i : Instr) (s : State) : Host.Outcome State Fault Refusal :=
  match i with
  | .ctrlNop => Sys2Proof.Machine.execCtrlNop s
  | .ctrlExecute => Sys2Proof.Machine.execCtrlExecute s
  | .ctrlAck => Sys2Proof.Machine.execCtrlAck s
  | .ctrlReserved => Sys2Proof.Machine.execCtrlReserved s
  | .rdCfg0 => Sys2Proof.Machine.execRdCfg0 s
  | .rdCfg1 => Sys2Proof.Machine.execRdCfg1 s
  | .rdCtrl => Sys2Proof.Machine.execRdCtrl s
  | .rdStatus => Sys2Proof.Machine.execRdStatus s
  | .rdReq => Sys2Proof.Machine.execRdReq s
  | .rdTxlen => Sys2Proof.Machine.execRdTxlen s
  | .rdPolicy => Sys2Proof.Machine.execRdPolicy s
  | .rdResult => Sys2Proof.Machine.execRdResult s
  | .rdNakrsn => Sys2Proof.Machine.execRdNakrsn s
  | .rdAttempts => Sys2Proof.Machine.execRdAttempts s
  | .rdDeadline => Sys2Proof.Machine.execRdDeadline s
  | .rdTxp w => Sys2Proof.Machine.execRdTxp w s
  | .rdRxp w => Sys2Proof.Machine.execRdRxp w s
  | .wrReq d => Sys2Proof.Machine.execWrReq d s
  | .wrTxlen d => Sys2Proof.Machine.execWrTxlen d s
  | .wrPolicy d => Sys2Proof.Machine.execWrPolicy d s
  | .wrTxp w d => Sys2Proof.Machine.execWrTxp w d s
  | .wrRoCfg0 => Sys2Proof.Machine.execWrRoCfg0 s
  | .wrRoCfg1 => Sys2Proof.Machine.execWrRoCfg1 s
  | .wrRoStatus => Sys2Proof.Machine.execWrRoStatus s
  | .wrRoResult => Sys2Proof.Machine.execWrRoResult s
  | .wrRoNakrsn => Sys2Proof.Machine.execWrRoNakrsn s
  | .wrRoAttempts => Sys2Proof.Machine.execWrRoAttempts s
  | .wrRoDeadline => Sys2Proof.Machine.execWrRoDeadline s
  | .wrRxp w => Sys2Proof.Machine.execWrRxp w s
  | .busError hwrite haddr hsize => Sys2Proof.Machine.execBusError hwrite haddr hsize s
  | .evTxAccept => Sys2Proof.Machine.execEvTxAccept s
  | .evRxByte b => Sys2Proof.Machine.execEvRxByte b s
  | .evChClosed => Sys2Proof.Machine.execEvChClosed s
  | .evChError => Sys2Proof.Machine.execEvChError s
  | .evTick => Sys2Proof.Machine.execEvTick s

end Sys2Proof.Machine
end

