-- ==== Sys2Proof/Machine/Cycle.lean ====
section
/-! DEFINITION. One clock cycle (44_cycle.md R133, R134): the operations of the cycle are decoded and run in the order of
R134, on outputs driven from the start-of-cycle state; a cycle with rst is a reset and no step. -/

namespace Sys2Proof.Machine

/-- The operations of a cycle, one after the other, each on the state that the one before it left (44_cycle.md R134). -/
def execAll : List Instr → State → Answer
  | [], s => .next s
  | i :: is, s =>
    match exec i s with
    | .next t => execAll is t
    | .fault r => .fault r
    | .refused r => .refused r

/-- One cycle with the inputs `c` (44_cycle.md R133, R134; 70_reset_and_hazards.md R156). -/
def runCycle (c : Cycle) (s : State) : Answer :=
  if c.rst then .next (applyReset s) else execAll (cycleOps s.cfg c) (beginCycle s)

/-- The inputs of the next cycle: the first of the inputs to come, or a cycle in which nothing happens where none is left
(60_exceptions.md R155, log 2). -/
def nextCycle (s : State) : Cycle := s.inputs.headD Cycle.quiet

/-- The inputs of the next cycle are taken (log 2). -/
def takeCycle (s : State) : State := { s with inputs := s.inputs.tail }

/-- The inputs of one cycle are put before those to come (log 2). -/
def putCycle (c : Cycle) (s : State) : State := { s with inputs := c :: s.inputs }

end Sys2Proof.Machine
end

