-- ==== Sys2Proof/Machine/Step.lean ====
section
/-! DEFINITION. One step of the machine is one clock cycle (44_cycle.md R134, 70_reset_and_hazards.md R167). -/

namespace Sys2Proof.Machine

/-- One step: the inputs of the next cycle are taken and the cycle is run (44_cycle.md R134, log 2). -/
def step (s : State) : Host.Outcome State Fault Refusal := runCycle (nextCycle s) (takeCycle s)

/-- The state in which the next cycle's only input is the operation whose bits, numbered as spec/opcode_table.json numbers
them, are `w` (log 2, log 10). -/
def State.withFetchWord (s : State) (nbits w : Nat) : State := putCycle (cycleOfTableWord nbits w) s

end Sys2Proof.Machine
end

