-- ==== Sys2Proof/Machine/Script.lean ====
section
/-! DEFINITION. The script notation of the spec's programs (30_encoding.md R74): the items of a line, the cycle of a line, and
the pseudo-instructions with their expansions. -/

namespace Sys2Proof.Machine

/-- An item of a line (30_encoding.md R74). A register is named by its byte address. -/
inductive ScriptItem where
  | rd (a : HostAddr)
  | wr (a : HostAddr) (d : Word)
  | txr
  | rx (b : Byte)
  | closed
  | ioerr
  | tick
deriving DecidableEq, Repr

/-- The address of word `w` of the TX window, `TXP[w]` (30_encoding.md R74, 20_memory.md R46). -/
def txpWordAddr (w : BitVec 14) : HostAddr := windowAddr 1#2 w

/-- The address of word `w` of the RX window, `RXP[w]` (30_encoding.md R74, 20_memory.md R46). -/
def rxpWordAddr (w : BitVec 14) : HostAddr := windowAddr 2#2 w

/-- One more item in a cycle; none where the cycle has a host access already, since a line holds at most one
(30_encoding.md R74). A second RX item on a line, which the grammar does not exclude, makes the line no cycle: one byte is
delivered a cycle (30_encoding.md R69, 70_reset_and_hazards.md R167), and the spec does not say which of the two it would be
(DESIGN CHOICE, log 14). Any other item given twice is the item. -/
def addItem (c : Cycle) : ScriptItem → Option Cycle
  | .rd a =>
    match c.access with
    | none => some { c with access := some { hwrite := false, haddr := a, hsize := 4, hwdata := 0#32 } }
    | some _ => none
  | .wr a d =>
    match c.access with
    | none => some { c with access := some { hwrite := true, haddr := a, hsize := 4, hwdata := d } }
    | some _ => none
  | .txr => some { c with iv := c.iv ||| 0x0001#13 }
  | .rx b =>
    if c.iv.getLsbD 1 then none else some { c with iv := c.iv ||| (0#3 ++ b ++ 0#2 : BitVec 13) ||| 0x0002#13 }
  | .closed => some { c with iv := c.iv ||| 0x0400#13 }
  | .ioerr => some { c with iv := c.iv ||| 0x0800#13 }
  | .tick => some { c with iv := c.iv ||| 0x1000#13 }

/-- The cycle of a line of items; `-` is the line with none (30_encoding.md R74). -/
def cycleOfLine (items : List ScriptItem) : Option Cycle := items.foldlM addItem Cycle.quiet

/-- `EXEC` (30_encoding.md R74). -/
def scriptExec : List ScriptItem := [.wr 0x008#18 1#32]

/-- `ACK` (30_encoding.md R74). -/
def scriptAck : List ScriptItem := [.wr 0x008#18 2#32]

/-- `TXALL n` (30_encoding.md R74). -/
def scriptTxAll (n : Nat) : List (List ScriptItem) := List.replicate n [.txr]

/-- `RXSEQ b0 … bk` (30_encoding.md R74). -/
def scriptRxSeq (bs : List Byte) : List (List ScriptItem) := bs.map fun b => [.rx b]

/-- `TICKS n` (30_encoding.md R74). -/
def scriptTicks (n : Nat) : List (List ScriptItem) := List.replicate n [.tick]

/-- `IDLE n` (30_encoding.md R74). -/
def scriptIdle (n : Nat) : List (List ScriptItem) := List.replicate n []

/-- The cycles of a program, one a line; none where a line is no cycle (30_encoding.md R74). -/
def cyclesOfScript (lines : List (List ScriptItem)) : Option (List Cycle) := lines.mapM cycleOfLine

end Sys2Proof.Machine
end

