-- ==== Sys2Proof/Safety.lean ====
section
/-! DEFINITION. What the statements speak of: the invariant of the block (10_state.md, 41_synchronizer.md R86, 42_sequencer.md),
the deadline budget of a transaction (42_sequencer.md R104), the cycle and the host bus written straight from the rules
(44_cycle.md R134, 43_host_ops.md R108, R109), against which the decoder and the step are stated, the rows of
spec/opcode_table.json, and a single-bit error of a frame (40_frame_codec.md R85). -/

namespace Sys2Proof

/-- tx_ready (30_encoding.md R71). -/
def Cycle.txReady (c : Cycle) : Bool := c.iv.getLsbD 0

/-- rx_valid (30_encoding.md R71). -/
def Cycle.rxValid (c : Cycle) : Bool := c.iv.getLsbD 1

/-- rx_data (30_encoding.md R71). -/
def Cycle.rxData (c : Cycle) : Byte := c.iv.extractLsb' 2 8

/-- ch_closed (30_encoding.md R71). -/
def Cycle.chClosed (c : Cycle) : Bool := c.iv.getLsbD 10

/-- ch_err (30_encoding.md R71). -/
def Cycle.chErr (c : Cycle) : Bool := c.iv.getLsbD 11

/-- tick (30_encoding.md R71). -/
def Cycle.isTick (c : Cycle) : Bool := c.iv.getLsbD 12

/-- A host access is checked for size and alignment before its address is looked at (30_encoding.md R67 step 1). -/
def Access.aligned (a : Access) : Bool := a.hsize == 4 && a.haddr.toNat % 4 == 0

end Sys2Proof

namespace Sys2Proof.Machine

/-- The reasons that an invalid message can have (10_state.md R25). -/
def Reason.isInvalid (r : Reason) : Bool :=
  match r with
  | .none => false
  | .checksum => true
  | .length => true
  | .unexpected => true
  | .closed => false
  | .ioError => false
  | .deadline => false

/-- The reasons that a channel failure can have (10_state.md R25). -/
def Reason.isChannel (r : Reason) : Bool :=
  match r with
  | .none => false
  | .checksum => false
  | .length => false
  | .unexpected => false
  | .closed => true
  | .ioError => true
  | .deadline => false

/-- The reason that goes with an outcome (10_state.md R25, 60_exceptions.md R140). -/
def reasonFits (o : TxnOutcome) (r : Reason) : Bool :=
  match o with
  | .none => r == .none
  | .success => r == .none
  | .nak => r == .none
  | .invalid => r.isInvalid
  | .timeout => r == .deadline
  | .channel => r.isChannel

/-- The payload memories have their canonical form and no entry at MAX_PAYLOAD or above (10_state.md R39, R40). -/
structure MemoriesWf (s : State) : Prop where
  txp_wf : Memory.wf s.txp = true
  rxp_wf : Memory.wf s.rxp = true
  txp_bound : ∀ c ∈ s.txp, c.1 < s.cfg.maxPayload
  rxp_bound : ∀ c ∈ s.rxp, c.1 < s.cfg.maxPayload

/-- While PHASE is IDLE the working fields are clear (42_sequencer.md R97, 43_host_ops.md R120). -/
structure IdleInv (s : State) : Prop where
  rxBuf : s.rxBuf = []
  txIdx : s.txIdx = 0#17
  dl : s.dl = 0#16
  invSeen : s.invSeen = false
  failRsn : s.failRsn = .none

/-- While BUSY the result is clear, the request was accepted, the deadline runs, and the attempts are within the budget
(42_sequencer.md R92, R93, R99, R102; 43_host_ops.md R113, R130). -/
structure BusyInv (s : State) : Prop where
  done : s.done = false
  outcome : s.outcome = .none
  txLen : s.txLen.toNat ≤ s.cfg.maxPayload
  dl_pos : 0 < s.dl.toNat
  dl_le : s.dl.toNat ≤ s.timeout.toNat
  attempts_pos : 0 < s.attempts.toNat
  attempts_le : s.attempts.toNat ≤ s.maxRetries.toNat + 1

/-- In TX the frame is partly sent and nothing has been received (10_state.md R21, R22; 42_sequencer.md R93, R94). -/
structure TxInv (s : State) : Prop where
  txIdx : s.txIdx.toNat < s.cfg.frameLen s.txLen.toNat
  rxBuf : s.rxBuf = []
  invSeen : s.invSeen = false
  failRsn : s.failRsn = .none

/-- In RX the frame is sent, and what is buffered is an incomplete frame (42_sequencer.md R94, 41_synchronizer.md R86). -/
structure RxInv (s : State) : Prop where
  txIdx : s.txIdx.toNat = s.cfg.frameLen s.txLen.toNat
  rxBuf : decodeFrame s.cfg s.rxBuf = .incomplete
  failRsn : s.failRsn = .none

/-- In HOLDOFF nothing is buffered and the reason of the channel failure is held (42_sequencer.md R100, R101). -/
structure HoldoffInv (s : State) : Prop where
  txIdx : s.txIdx.toNat ≤ s.cfg.frameLen s.txLen.toNat
  rxBuf : s.rxBuf = []
  failRsn : s.failRsn.isChannel = true

/-- The result fields agree with the outcome (10_state.md R24, R25, R34, R35; 43_host_ops.md R117, R118). -/
structure ResultInv (s : State) : Prop where
  reason : reasonFits s.outcome s.reason = true
  done : s.done = true → s.outcome ≠ .none
  noFrame : s.outcome ≠ .success → s.outcome ≠ .nak → s.rspAddr = 0#8 ∧ s.rspCmdRx = 0#8 ∧ s.rxLen = 0#16
  noNak : s.outcome ≠ .nak → s.nakValid = false
  nakCode : s.nakValid = false → s.nakCode = 0#8
  rxLen : s.rxLen.toNat ≤ s.cfg.maxPayload
  attempts : s.attempts.toNat ≤ 256

/-- The invariant of the block. -/
structure Inv (s : State) : Prop where
  memories : MemoriesWf s
  idle : s.phase = .idle → IdleInv s
  busy : s.phase ≠ .idle → BusyInv s
  tx : s.phase = .tx → TxInv s
  rx : s.phase = .rx → RxInv s
  holdoff : s.phase = .holdoff → HoldoffInv s
  result : ResultInv s
  err : s.err = false ↔ s.errCode = .none
  marks : if s.invSeen then s.invRsn.isInvalid = true else s.invRsn = .none

/-- The outcome and the reason with which an attempt in progress fails at its deadline (42_sequencer.md R103). -/
def attemptFailure (s : State) : TxnOutcome × Reason :=
  if s.phase = .holdoff then (.channel, s.failRsn)
  else if s.phase = .rx ∧ s.invSeen = true then (.invalid, s.invRsn)
  else (.timeout, .deadline)

/-- A retry is allowed after a failure of kind `K`: the policy bit of the kind is set and retries remain (42_sequencer.md
R98, R99). -/
def mayRetry (s : State) (K : TxnOutcome) : Prop :=
  ((K = .timeout ∧ s.retryOnTimeout = true) ∨ ((K = .channel ∨ K = .invalid) ∧ s.retryOnChannel = true))
    ∧ s.attempts.toNat ≤ s.maxRetries.toNat

/-- How many cycles of a list carry a tick (42_sequencer.md R104). -/
def tickCount (cs : List Cycle) : Nat := cs.countP Cycle.isTick

/-- The most ticks a transaction lasts: `(MAX_RETRIES + 1) * TIMEOUT` (42_sequencer.md R104). -/
def tickBudget (s : State) : Nat := (s.maxRetries.toNat + 1) * s.timeout.toNat

/-- A cycle that neither resets the block nor starts a transaction. -/
def startsNothing (cfg : Config) (c : Cycle) : Prop :=
  c.rst = false ∧ ∀ a, c.access = some a → decodeAccess cfg a ≠ .ctrlExecute

/-- A cycle without reset, of a channel that delivers no byte and reports no failure (42_sequencer.md R105). Whether it
accepts a byte, and what the host reads or writes, are free. -/
def silentChannel (c : Cycle) : Prop :=
  c.rst = false ∧ c.rxValid = false ∧ c.chClosed = false ∧ c.chErr = false

/-- `rd(off)`, the value of the register or window word at an address, if the address is mapped: read off the address map
(43_host_ops.md R108, 20_memory.md R45). -/
def readByRule (s : State) (a : Nat) : Option Word :=
  if a = 0x00 then some (cfg0Word s.cfg)
  else if a = 0x04 then some (cfg1Word s.cfg)
  else if a = 0x08 then some 0#32
  else if a = 0x0C then some s.statusWord
  else if a = 0x10 then some s.req
  else if a = 0x14 then some s.txlenWord
  else if a = 0x18 then some s.policyWord
  else if a = 0x1C then some s.resultWord
  else if a = 0x20 then some s.nakrsnWord
  else if a = 0x24 then some s.attemptsWord
  else if a = 0x28 then some s.deadlineWord
  else if 0x10000 ≤ a ∧ a < 0x10000 + 4 * s.cfg.windowWords then some (readWindow s.cfg s.txpByte ((a - 0x10000) / 4))
  else if 0x20000 ≤ a ∧ a < 0x20000 + 4 * s.cfg.windowWords then some (readWindow s.cfg s.rxpByte ((a - 0x20000) / 4))
  else none

/-- The state that a write of `d` to an address leaves, if the address is mapped: read off the address map
(43_host_ops.md R109, R123 to R132; 20_memory.md R45). -/
def writeByRule (s : State) (a : Nat) (d : Word) : Option State :=
  if a = 0x08 then
    if d.toNat % 4 = 0 then some s
    else if d.toNat % 4 = 1 then
      if s.phase ≠ .idle then some (setErr .execWhileBusy s)
      else if s.txLen.toNat > s.cfg.maxPayload then some (setErr .payloadTooLarge s)
      else if s.timeout = 0#16 then some (setErr .badTimeout s)
      else some (execStart s)
    else if d.toNat % 4 = 2 then some { s with done := false, err := false, errCode := .none }
    else some (setErr .reservedOp s)
  else if a = 0x10 then some (if s.phase ≠ .idle then setErr .writeWhileBusy s else { s with req := d })
  else if a = 0x14 then
    some (if s.phase ≠ .idle then setErr .writeWhileBusy s else { s with txLen := BitVec.ofNat 16 d.toNat })
  else if a = 0x18 then
    some (if s.phase ≠ .idle then setErr .writeWhileBusy s else { s with policy := BitVec.ofNat 26 d.toNat })
  else if a < 0x2C ∧ a % 4 = 0 then some s
  else if 0x10000 ≤ a ∧ a < 0x10000 + 4 * s.cfg.windowWords then
    some
      (if s.phase ≠ .idle then setErr .writeWhileBusy s
      else { s with txp := writeWindow s.cfg s.txp ((a - 0x10000) / 4) d })
  else if 0x20000 ≤ a ∧ a < 0x20000 + 4 * s.cfg.windowWords then some s
  else none

/-- What a host read answers: HRDATA and bus_err (43_host_ops.md R108, 60_exceptions.md R145). -/
def hostReadByRule (s : State) (a : Access) : Word × Bool :=
  if a.aligned then
    match readByRule s a.haddr.toNat with
    | some v => (v, false)
    | none => (0#32, true)
  else (0#32, true)

/-- What a host write leaves and answers: the state and bus_err (43_host_ops.md R109, 60_exceptions.md R145). -/
def hostWriteByRule (s : State) (a : Access) : State × Bool :=
  if a.aligned then
    match writeByRule s a.haddr.toNat a.hwdata with
    | some t => (t, false)
    | none => (s, true)
  else (s, true)

/-- Step 1 of 44_cycle.md R134: what a host read of the cycle answers, on the start state. -/
def readStep (c : Cycle) (s : State) : Word × Bool :=
  match c.access with
  | none => (0#32, false)
  | some a => if a.hwrite then (0#32, false) else hostReadByRule s a

/-- Steps 2 to 5 of 44_cycle.md R134: TX transfer, RX byte, channel failure, tick. -/
def channelSteps (c : Cycle) (s : State) : State :=
  let s2 := if s.phase = .tx ∧ c.txReady = true then txAccept s else s
  let s3 := if c.rxValid = true ∧ s2.phase = .rx then rxByte c.rxData s2 else s2
  let s4 :=
    if (s3.phase = .tx ∨ s3.phase = .rx) ∧ (c.chClosed = true ∨ c.chErr = true) then
      chFail (if c.chClosed then .closed else .ioError) s3
    else s3
  if c.isTick = true ∧ s4.phase ≠ .idle then tick s4 else s4

/-- Step 6 of 44_cycle.md R134: a host write of the cycle. -/
def writeStep (c : Cycle) (s : State) : State × Bool :=
  match c.access with
  | none => (s, false)
  | some a => if a.hwrite then hostWriteByRule s a else (s, false)

/-- One cycle without reset, straight from 44_cycle.md R134. -/
def cycleByRule (c : Cycle) (s : State) : State :=
  { (writeStep c (channelSteps c s)).1 with
    out :=
      { txValid := s.phase == .tx
        txData := if s.phase = .tx then byteAt s.txFrame s.txIdx.toNat else 0#8
        irq := s.done || s.err
        hrdata := (readStep c s).1
        busErr := (readStep c s).2 || (writeStep c (channelSteps c s)).2 } }

/-- The inputs that bytes delivered one after the other are to the block (41_synchronizer.md R90). -/
def rxEvents (B : List Byte) : List Instr := B.map .evRxByte

/-- A byte list with bit `j` of byte `i` flipped (40_frame_codec.md R85). -/
def flipBit (B : List Byte) (i j : Nat) : List Byte := B.set i (byteAt B i ^^^ BitVec.twoPow 8 j)

/-- A row of spec/opcode_table.json: its format with its mask and its match. -/
inductive TableRow where
  | hbus (mask matching : BitVec 52)
  | iv (mask matching : BitVec 13)
deriving DecidableEq, Repr

/-- The row of spec/opcode_table.json of an operation, its mask and match copied from the table. -/
def tableRow : Instr → TableRow
  | .ctrlNop => .hbus 0xFFFFF00000003#52 0x8000800000000#52
  | .ctrlExecute => .hbus 0xFFFFF00000003#52 0x8000800000001#52
  | .ctrlAck => .hbus 0xFFFFF00000003#52 0x8000800000002#52
  | .ctrlReserved => .hbus 0xFFFFF00000003#52 0x8000800000003#52
  | .rdCfg0 => .hbus 0xFFFFF00000000#52 0x0000000000000#52
  | .rdCfg1 => .hbus 0xFFFFF00000000#52 0x0000400000000#52
  | .rdCtrl => .hbus 0xFFFFF00000000#52 0x0000800000000#52
  | .rdStatus => .hbus 0xFFFFF00000000#52 0x0000C00000000#52
  | .rdReq => .hbus 0xFFFFF00000000#52 0x0001000000000#52
  | .rdTxlen => .hbus 0xFFFFF00000000#52 0x0001400000000#52
  | .rdPolicy => .hbus 0xFFFFF00000000#52 0x0001800000000#52
  | .rdResult => .hbus 0xFFFFF00000000#52 0x0001C00000000#52
  | .rdNakrsn => .hbus 0xFFFFF00000000#52 0x0002000000000#52
  | .rdAttempts => .hbus 0xFFFFF00000000#52 0x0002400000000#52
  | .rdDeadline => .hbus 0xFFFFF00000000#52 0x0002800000000#52
  | .rdTxp _ => .hbus 0xB000300000000#52 0x1000000000000#52
  | .rdRxp _ => .hbus 0xB000300000000#52 0x2000000000000#52
  | .wrReq _ => .hbus 0xFFFFF00000000#52 0x8001000000000#52
  | .wrTxlen _ => .hbus 0xFFFFF00000000#52 0x8001400000000#52
  | .wrPolicy _ => .hbus 0xFFFFF00000000#52 0x8001800000000#52
  | .wrTxp _ _ => .hbus 0xB000300000000#52 0x9000000000000#52
  | .wrRoCfg0 => .hbus 0xFFFFF00000000#52 0x8000000000000#52
  | .wrRoCfg1 => .hbus 0xFFFFF00000000#52 0x8000400000000#52
  | .wrRoStatus => .hbus 0xFFFFF00000000#52 0x8000C00000000#52
  | .wrRoResult => .hbus 0xFFFFF00000000#52 0x8001C00000000#52
  | .wrRoNakrsn => .hbus 0xFFFFF00000000#52 0x8002000000000#52
  | .wrRoAttempts => .hbus 0xFFFFF00000000#52 0x8002400000000#52
  | .wrRoDeadline => .hbus 0xFFFFF00000000#52 0x8002800000000#52
  | .wrRxp _ => .hbus 0xB000300000000#52 0xA000000000000#52
  | .busError _ _ _ => .hbus 0x0000000000000#52 0x0000000000000#52
  | .evTxAccept => .iv 0x0001#13 0x0001#13
  | .evRxByte _ => .iv 0x0002#13 0x0002#13
  | .evChClosed => .iv 0x0400#13 0x0400#13
  | .evChError => .iv 0x0800#13 0x0800#13
  | .evTick => .iv 0x1000#13 0x1000#13

/-- An encoding carries the bits of a row: `key & mask = match` (30_encoding.md R72). -/
def TableRow.fits : TableRow → Encoding → Bool
  | .hbus mask matching, .hbus _ key => key &&& mask == matching
  | .iv mask matching, .iv v => v &&& mask == matching
  | .hbus _ _, .iv _ => false
  | .iv _ _, .hbus _ _ => false

end Sys2Proof.Machine
end

