-- ==== Sys2Proof/Certificates/Slice0/Obligations.lean ====
section
/-! DEFINITION. The statements about the block for the provers, from the numbered rules of spec/. A statement about an
operation gives the whole next state, so that it says what the operation leaves unchanged as well as what it changes. -/

open Sys2Proof Sys2Proof.Machine

/-! ### Encoding, decoding and the step -/

/-- Words written out from spec/opcode_table.json and 30_encoding.md R66, R71 decode to their operations. -/
def Obligations.TableWordsDecodeToTheirOperations : Prop :=
  decode Config.ref (.hbus 4 0x8000800000001#52) = .ok .ctrlExecute
    ∧ decode Config.ref (.hbus 4 0x80008FFFFFFFE#52) = .ok .ctrlAck
    ∧ decode Config.ref (.hbus 4 0x0000C00000000#52) = .ok .rdStatus
    ∧ decode Config.ref (.hbus 4 0x100FC00000000#52) = .ok (.rdTxp 63#14)
    ∧ decode Config.ref (.hbus 4 0x1010000000000#52) = .ok (.busError false 0x10100#18 4)
    ∧ decode Config.ref (.hbus 4 0x8001015062201#52) = .ok (.wrReq 0x15062201#32)
    ∧ decode Config.ref (.hbus 4 0x80014FFFF0002#52) = .ok (.wrTxlen 2#16)
    ∧ decode Config.ref (.hbus 4 0xA000012345678#52) = .ok (.wrRxp 0#14)
    ∧ decode Config.ref (.hbus 4 0x8002800000000#52) = .ok .wrRoDeadline
    ∧ decode Config.ref (.hbus 4 0x0001200000000#52) = .ok (.busError false 0x00012#18 4)
    ∧ decode Config.ref (.iv 0x18E#13) = .ok (.evRxByte 0x63#8)
    ∧ decode Config.ref (.iv 0x1000#13) = .ok .evTick

/-- Decode and encode agree: every well-formed operation, with every operand, in every dialect, decodes from its encoding. -/
def Obligations.EncodedOperationDecodesToItself : Prop :=
  ∀ (cfg : Config) (i : Instr), WellFormed cfg i = true → decode cfg (encode i) = .ok i

/-- The decoder gives only operations that exist in the block: a window word below WW, a bus error only where the access is
mapped nowhere. -/
def Obligations.DecodedOperationIsWellFormed : Prop :=
  ∀ (cfg : Config) (e : Encoding) (i : Instr), decode cfg e = .ok i → WellFormed cfg i = true

/-- Whatever an encoding decodes to, its bits fit that operation's row of the opcode table (`key & mask = match`). -/
def Obligations.DecodedBitsFitTheTableRow : Prop :=
  ∀ (cfg : Config) (e : Encoding) (i : Instr), decode cfg e = .ok i → (tableRow i).fits e = true

/-- Host access decode: an access is a bus error exactly where its size is not 4, its address is misaligned, or the address
map gives its address to no register and no window. -/
def Obligations.BusErrorExactlyWhereUnmapped : Prop :=
  ∀ (cfg : Config) (a : Access),
    (decodeAccess cfg a = .busError a.hwrite a.haddr a.hsize ↔
      (a.hsize ≠ 4 ∨ a.haddr.toNat % 4 ≠ 0
        ∨ (0x2C ≤ a.haddr.toNat
          ∧ ¬ (0x10000 ≤ a.haddr.toNat ∧ a.haddr.toNat < 0x10000 + 4 * cfg.windowWords)
          ∧ ¬ (0x20000 ≤ a.haddr.toNat ∧ a.haddr.toNat < 0x20000 + 4 * cfg.windowWords))))
    ∧ ∀ w addr size, decodeAccess cfg a = .busError w addr size → w = a.hwrite ∧ addr = a.haddr ∧ size = a.hsize

/-- A step runs the decoded operation: where the next cycle's only input is an encoding that decodes to `i`, the step is
`exec i` on the state whose input is taken and whose outputs are driven; with no input left the step only drives the
outputs. -/
def Obligations.StepRunsTheDecodedOperation : Prop :=
  (∀ (s : State) (e : Encoding) (rest : List Cycle) (i : Instr),
      s.inputs = cycleOfEncoding e :: rest → decode s.cfg e = .ok i →
        step s = exec i (beginCycle { s with inputs := rest }))
    ∧ ∀ s : State, s.inputs = [] → step s = .next (beginCycle s)

/-- A cycle without reset does what the pseudocode of 44_cycle.md R134 says, sub-step by sub-step, with the host bus read
straight off the address map. -/
def Obligations.StepFollowsTheCycleRule : Prop :=
  ∀ (s : State) (c : Cycle) (rest : List Cycle), s.inputs = c :: rest → c.rst = false →
    step s = .next (cycleByRule c { s with inputs := rest })

/-- The block never stops: every step, whatever the state and the inputs, has a next state, and the dialect never changes. -/
def Obligations.EveryStepHasANextState : Prop :=
  ∀ s : State, ∃ t, step s = .next t ∧ t.cfg = s.cfg ∧ t.inputs = s.inputs.tail

/-- The outputs of a cycle: tx_valid, tx_data and irq are those of the start-of-cycle state, bus_err is a function of the
access only, HRDATA is a function of the start state and the access only and is 0 without a read. -/
def Obligations.OutputsFollowTheStartState : Prop :=
  ∀ (s t : State) (c : Cycle) (rest : List Cycle), s.inputs = c :: rest → c.rst = false → step s = .next t →
    t.out.txValid = (s.phase == .tx)
      ∧ t.out.txData = (if s.phase = .tx then byteAt s.txFrame s.txIdx.toNat else 0#8)
      ∧ t.out.irq = (s.done || s.err)
      ∧ t.out.busErr = (match c.access with | none => false | some a => !isMapped s.cfg a.haddr a.hsize)
      ∧ t.out.hrdata = (match c.access with | none => 0#32 | some a => if a.hwrite then 0#32 else (hostReadByRule s a).1)

/-- A cycle with no input changes nothing but the outputs of the block. -/
def Obligations.QuietCycleHoldsTheState : Prop :=
  ∀ (s : State) (rest : List Cycle), s.inputs = Cycle.quiet :: rest →
    ∃ t, step s = .next t ∧ t = { s with inputs := rest, out := t.out }

/-! ### Reset -/

/-- A cycle with rst gives every field its reset value, drives all outputs to 0, and ignores the host access and the channel
inputs of the cycle. -/
def Obligations.ResetCycleGivesTheResetState : Prop :=
  ∀ (s : State) (c : Cycle) (rest : List Cycle), s.inputs = c :: rest → c.rst = true →
    ∃ t, step s = .next t ∧ t.phase = .idle ∧ t.done = false ∧ t.err = false ∧ t.errCode = .none ∧ t.outcome = .none
      ∧ t.reason = .none ∧ t.req = 0#32 ∧ t.txLen = 0#16 ∧ t.policy = 0x3000000#26 ∧ t.rspAddr = 0#8
      ∧ t.rspCmdRx = 0#8 ∧ t.rxLen = 0#16 ∧ t.nakCode = 0#8 ∧ t.nakValid = false ∧ t.attempts = 0#9 ∧ t.dl = 0#16
      ∧ t.txIdx = 0#17 ∧ t.rxBuf = [] ∧ t.invSeen = false ∧ t.invRsn = .none ∧ t.failRsn = .none
      ∧ t.out = { txValid := false, txData := 0#8, irq := false, hrdata := 0#32, busErr := false }
      ∧ t.cfg = s.cfg ∧ t.inputs = rest

/-- What the host sees right after reset, and that an EXECUTE right after reset is refused with BAD_TIMEOUT. -/
def Obligations.HostViewRightAfterReset : Prop :=
  ∀ s r : State, (r = State.reset ∨ r = applyReset s) →
    r.statusWord = 0#32 ∧ r.policyWord = 0x03000000#32 ∧ r.req = 0#32 ∧ r.txlenWord = 0#32 ∧ r.resultWord = 0#32
      ∧ r.nakrsnWord = 0#32 ∧ r.attemptsWord = 0#32 ∧ r.deadlineWord = 0#32
      ∧ (cycleOutputs r).txValid = false ∧ (cycleOutputs r).irq = false
      ∧ exec .ctrlExecute r =
          .next { r with err := true, errCode := .badTimeout, out := { r.out with busErr := false } }

/-! ### Register reads -/

/-- A read of 0x00000 is RD_CFG0, which answers the dialect, field by field, and changes nothing else. -/
def Obligations.ReadCfg0AnswersTheDialect : Prop :=
  (∀ (cfg : Config) (d : Word), decodeAccess cfg ⟨false, 0x000#18, 4, d⟩ = .rdCfg0)
    ∧ ∀ s : State, ∃ v : Word,
    exec .rdCfg0 s = .next { s with out := { s.out with hrdata := v, busErr := false } }
      ∧ (v.extractLsb' 0 2).toNat = s.cfg.startLen ∧ (v.extractLsb' 2 2).toNat = s.cfg.lenW
      ∧ (v.getLsbD 4 = true ↔ s.cfg.lenOrder = .le) 
      ∧ v.extractLsb' 5 3 = (match s.cfg.chkAlg with | .xor8 => 0#3 | .sum8 => 1#3 | .sum16 => 2#3 | .crc16 => 3#3)
      ∧ (v.getLsbD 8 = true ↔ s.cfg.chkOrder = .le) ∧ (v.extractLsb' 9 2).toNat = s.cfg.chkW
      ∧ v.extractLsb' 11 5 = 0#5 ∧ v.extractLsb' 16 8 = s.cfg.start0
      ∧ v.extractLsb' 24 8 = (match s.cfg.start with | .one _ => 0#8 | .two _ b => b)

/-- A read of 0x00004 is RD_CFG1, which answers MAX_PAYLOAD; a read of 0x00008 is RD_CTRL, which answers 0; they change
nothing else. -/
def Obligations.ReadCfg1AndCtrl : Prop :=
  (∀ (cfg : Config) (d : Word),
    decodeAccess cfg ⟨false, 0x004#18, 4, d⟩ = .rdCfg1 ∧ decodeAccess cfg ⟨false, 0x008#18, 4, d⟩ = .rdCtrl)
    ∧ ∀ s : State, (∃ v : Word, exec .rdCfg1 s = .next { s with out := { s.out with hrdata := v, busErr := false } }
      ∧ v.toNat = s.cfg.maxPayload)
      ∧ exec .rdCtrl s = .next { s with out := { s.out with hrdata := 0#32, busErr := false } }

/-- RD_STATUS answers BUSY, DONE, ERR, ERR_CODE, OUTCOME, PHASE and REASON at their bit positions, each with the numeric code
of the spec, reserved bits 0, and changes nothing else. -/
def Obligations.ReadStatusAnswersTheFlags : Prop :=
  ∀ s : State, ∃ v : Word,
    exec .rdStatus s = .next { s with out := { s.out with hrdata := v, busErr := false } }
      ∧ (v.getLsbD 0 = true ↔ s.phase ≠ .idle) ∧ v.getLsbD 1 = s.done ∧ v.getLsbD 2 = s.err ∧ v.getLsbD 3 = false
      ∧ v.extractLsb' 4 4 = (match s.errCode with
        | .none => 0#4 | .payloadTooLarge => 1#4 | .badTimeout => 2#4 | .execWhileBusy => 3#4 | .writeWhileBusy => 4#4
        | .reservedOp => 5#4)
      ∧ v.extractLsb' 8 3 = (match s.outcome with
        | .none => 0#3 | .success => 1#3 | .nak => 2#3 | .invalid => 3#3 | .timeout => 4#3 | .channel => 5#3)
      ∧ v.getLsbD 11 = false
      ∧ v.extractLsb' 12 2 = (match s.phase with | .idle => 0#2 | .tx => 1#2 | .rx => 2#2 | .holdoff => 3#2)
      ∧ v.extractLsb' 14 2 = 0#2
      ∧ v.extractLsb' 16 4 = (match s.reason with
        | .none => 0#4 | .checksum => 1#4 | .length => 2#4 | .unexpected => 3#4 | .closed => 4#4 | .ioError => 5#4
        | .deadline => 6#4)
      ∧ v.extractLsb' 20 12 = 0#12

/-- Reads of 0x00010, 0x00014 and 0x00018 are RD_REQ, RD_TXLEN and RD_POLICY, which answer what the register holds, widened
with zeros, and change nothing else. -/
def Obligations.ReadRequestRegisters : Prop :=
  (∀ (cfg : Config) (d : Word),
    decodeAccess cfg ⟨false, 0x010#18, 4, d⟩ = .rdReq ∧ decodeAccess cfg ⟨false, 0x014#18, 4, d⟩ = .rdTxlen
      ∧ decodeAccess cfg ⟨false, 0x018#18, 4, d⟩ = .rdPolicy)
    ∧ ∀ s : State, exec .rdReq s = .next { s with out := { s.out with hrdata := s.req, busErr := false } }
      ∧ exec .rdTxlen s = .next { s with out := { s.out with hrdata := BitVec.ofNat 32 s.txLen.toNat, busErr := false } }
      ∧ exec .rdPolicy s =
          .next { s with out := { s.out with hrdata := BitVec.ofNat 32 s.policy.toNat, busErr := false } }

/-- RD_RESULT, RD_NAKRSN, RD_ATTEMPTS and RD_DEADLINE answer the result fields and the counters at their bit positions,
reserved bits 0, and change nothing else. -/
def Obligations.ReadResultRegisters : Prop :=
  ∀ s : State,
    (∃ v : Word, exec .rdResult s = .next { s with out := { s.out with hrdata := v, busErr := false } }
      ∧ v.extractLsb' 0 8 = s.rspAddr ∧ v.extractLsb' 8 8 = s.rspCmdRx ∧ v.extractLsb' 16 16 = s.rxLen)
      ∧ (∃ v : Word, exec .rdNakrsn s = .next { s with out := { s.out with hrdata := v, busErr := false } }
        ∧ v.extractLsb' 0 8 = s.nakCode ∧ v.getLsbD 8 = s.nakValid ∧ v.extractLsb' 9 23 = 0#23)
      ∧ exec .rdAttempts s =
          .next { s with out := { s.out with hrdata := BitVec.ofNat 32 s.attempts.toNat, busErr := false } }
      ∧ exec .rdDeadline s =
          .next { s with out := { s.out with hrdata := BitVec.ofNat 32 s.dl.toNat, busErr := false } }

/-- RD_TXP and RD_RXP of a word below WW answer payload byte 4w+k in bits 8k+7:8k, and 0 for a byte at MAX_PAYLOAD or above;
of a word at WW or above, which the decoder never gives, they answer a bus error (the model's choice, log 11). They change
nothing else. -/
def Obligations.ReadPayloadWindows : Prop :=
  ∀ (s : State) (w : BitVec 14),
    (w.toNat < s.cfg.windowWords →
      (∃ v : Word, exec (.rdTxp w) s = .next { s with out := { s.out with hrdata := v, busErr := false } }
        ∧ ∀ k, k < 4 → v.extractLsb' (8 * k) 8 =
            if 4 * w.toNat + k < s.cfg.maxPayload then s.txpByte (4 * w.toNat + k) else 0#8)
        ∧ ∃ v : Word, exec (.rdRxp w) s = .next { s with out := { s.out with hrdata := v, busErr := false } }
          ∧ ∀ k, k < 4 → v.extractLsb' (8 * k) 8 =
              if 4 * w.toNat + k < s.cfg.maxPayload then s.rxpByte (4 * w.toNat + k) else 0#8)
      ∧ (s.cfg.windowWords ≤ w.toNat →
        exec (.rdTxp w) s = .next { s with out := { s.out with hrdata := 0#32, busErr := true } }
          ∧ exec (.rdRxp w) s = .next { s with out := { s.out with hrdata := 0#32, busErr := true } })

/-- A host read disturbs nothing: a cycle with it and the same cycle without it leave the same state but for HRDATA and
bus_err. -/
def Obligations.HostReadDisturbsNothing : Prop :=
  ∀ (s t u : State) (c : Cycle) (a : Access), c.access = some a → a.hwrite = false →
    step { s with inputs := [c] } = .next t → step { s with inputs := [{ c with access := none }] } = .next u →
      { t with out := { t.out with hrdata := 0#32, busErr := false } } = u

/-! ### Register writes -/

/-- While idle, WR_REQ, WR_TXLEN and WR_POLICY store their operand and change nothing else; no value is refused. -/
def Obligations.IdleRequestWrites : Prop :=
  ∀ (s : State) (d : Word) (n : BitVec 16) (p : BitVec 26), s.phase = .idle →
    exec (.wrReq d) s = .next { s with req := d, out := { s.out with busErr := false } }
      ∧ exec (.wrTxlen n) s = .next { s with txLen := n, out := { s.out with busErr := false } }
      ∧ exec (.wrPolicy p) s = .next { s with policy := p, out := { s.out with busErr := false } }

/-- WR_TXP while idle, of a word below WW: the four bytes of the word are stored at 4w to 4w+3, those at MAX_PAYLOAD or above
dropped; every other byte of both payload memories, and everything else, is unchanged. -/
def Obligations.IdleWindowWriteStoresItsBytes : Prop :=
  ∀ (s : State) (w : BitVec 14) (d : Word), s.phase = .idle → w.toNat < s.cfg.windowWords →
    ∃ t, exec (.wrTxp w d) s = .next t
      ∧ t = { s with txp := t.txp, out := { s.out with busErr := false } }
      ∧ (∀ i, 4 * w.toNat ≤ i → i < 4 * w.toNat + 4 → i < s.cfg.maxPayload →
          t.txpByte i = d.extractLsb' (8 * (i - 4 * w.toNat)) 8)
      ∧ (∀ i, ¬ (4 * w.toNat ≤ i ∧ i < 4 * w.toNat + 4 ∧ i < s.cfg.maxPayload) → t.txpByte i = s.txpByte i)
      ∧ ∀ i, t.rxpByte i = s.rxpByte i

/-- While busy, a write of REQ, TXLEN, POLICY or a word of the TX window changes nothing in that register or window and
records WRITE_WHILE_BUSY. -/
def Obligations.BusyWritesAreRefused : Prop :=
  ∀ (s : State) (d : Word) (n : BitVec 16) (p : BitVec 26) (w : BitVec 14), s.phase ≠ .idle →
    ∀ i, (i = .wrReq d ∨ i = .wrTxlen n ∨ i = .wrPolicy p ∨ (i = .wrTxp w d ∧ w.toNat < s.cfg.windowWords)) →
      exec i s = .next { s with err := true, errCode := .writeWhileBusy, out := { s.out with busErr := false } }

/-- A write of a read-only register, or of a word of the RX window below WW, changes nothing and records nothing, whether
busy or not, and is no bus error. -/
def Obligations.ReadOnlyWritesAreIgnored : Prop :=
  (∀ (cfg : Config) (d : Word),
    decodeAccess cfg ⟨true, 0x000#18, 4, d⟩ = .wrRoCfg0 ∧ decodeAccess cfg ⟨true, 0x004#18, 4, d⟩ = .wrRoCfg1
      ∧ decodeAccess cfg ⟨true, 0x00C#18, 4, d⟩ = .wrRoStatus ∧ decodeAccess cfg ⟨true, 0x01C#18, 4, d⟩ = .wrRoResult
      ∧ decodeAccess cfg ⟨true, 0x020#18, 4, d⟩ = .wrRoNakrsn ∧ decodeAccess cfg ⟨true, 0x024#18, 4, d⟩ = .wrRoAttempts
      ∧ decodeAccess cfg ⟨true, 0x028#18, 4, d⟩ = .wrRoDeadline
      ∧ ∀ w : BitVec 14, w.toNat < cfg.windowWords →
          decodeAccess cfg ⟨true, BitVec.ofNat 18 (0x20000 + 4 * w.toNat), 4, d⟩ = .wrRxp w)
    ∧ ∀ (s : State) (i : Instr),
    (i = .wrRoCfg0 ∨ i = .wrRoCfg1 ∨ i = .wrRoStatus ∨ i = .wrRoResult ∨ i = .wrRoNakrsn ∨ i = .wrRoAttempts
      ∨ i = .wrRoDeadline ∨ ∃ w : BitVec 14, i = .wrRxp w ∧ w.toNat < s.cfg.windowWords) →
      exec i s = .next { s with out := { s.out with busErr := false } }

/-- A bus error answers bus_err = 1, and HRDATA = 0 to a read, and writes no state: BUS_ERROR itself, and a window write at
word WW or above, which the decoder never gives (the model's choice for such an operation, log 11). -/
def Obligations.BusErrorWritesNoState : Prop :=
  ∀ (s : State) (addr : HostAddr) (size : Nat),
    exec (.busError false addr size) s = .next { s with out := { s.out with hrdata := 0#32, busErr := true } }
      ∧ exec (.busError true addr size) s = .next { s with out := { s.out with busErr := true } }
      ∧ ∀ (w : BitVec 14) (d : Word), s.cfg.windowWords ≤ w.toNat →
          exec (.wrTxp w d) s = .next { s with out := { s.out with busErr := true } }
            ∧ exec (.wrRxp w) s = .next { s with out := { s.out with busErr := true } }

/-! ### Control commands -/

/-- CTRL_NOP: no state written, no error recorded, whether busy or not; and a write of CTRL is a NOP whatever its bits 31:2
are, if bits 1:0 are 0. -/
def Obligations.NopChangesNothing : Prop :=
  (∀ s : State, exec .ctrlNop s = .next { s with out := { s.out with busErr := false } })
    ∧ ∀ (cfg : Config) (d : Word), d.toNat % 4 = 0 →
        decodeAccess cfg { hwrite := true, haddr := 0x008#18, hsize := 4, hwdata := d } = .ctrlNop

/-- An accepted EXECUTE: not busy, TX_LEN within MAX_PAYLOAD, TIMEOUT not 0. The result is cleared, attempt 1 starts, ERR,
ERR_CODE, the request, the policy and both payload memories are kept. -/
def Obligations.AcceptedExecuteStartsAttemptOne : Prop :=
  ∀ s : State, s.phase = .idle → s.txLen.toNat ≤ s.cfg.maxPayload → s.timeout ≠ 0#16 →
    exec .ctrlExecute s =
      .next
        { s with
          phase := .tx, done := false, outcome := .none, reason := .none, rspAddr := 0#8, rspCmdRx := 0#8,
          rxLen := 0#16, nakCode := 0#8, nakValid := false, attempts := 1#9, dl := s.timeout, txIdx := 0#17,
          rxBuf := [], invSeen := false, invRsn := .none, failRsn := .none,
          out := { s.out with busErr := false } }

/-- A refused EXECUTE writes only ERR and ERR_CODE, and only the first failing check is recorded: EXEC_WHILE_BUSY, then
PAYLOAD_TOO_LARGE, then BAD_TIMEOUT. -/
def Obligations.RefusedExecuteRecordsTheFirstCheck : Prop :=
  ∀ s : State,
    (s.phase ≠ .idle →
      exec .ctrlExecute s =
        .next { s with err := true, errCode := .execWhileBusy, out := { s.out with busErr := false } })
      ∧ (s.phase = .idle → s.cfg.maxPayload < s.txLen.toNat →
        exec .ctrlExecute s =
          .next { s with err := true, errCode := .payloadTooLarge, out := { s.out with busErr := false } })
      ∧ (s.phase = .idle → s.txLen.toNat ≤ s.cfg.maxPayload → s.timeout = 0#16 →
        exec .ctrlExecute s =
          .next { s with err := true, errCode := .badTimeout, out := { s.out with busErr := false } })

/-- CTRL_ACK clears DONE, ERR and ERR_CODE and nothing else, whether busy or not. -/
def Obligations.AckClearsDoneAndErr : Prop :=
  ∀ s : State,
    exec .ctrlAck s =
      .next { s with done := false, err := false, errCode := .none, out := { s.out with busErr := false } }

/-- A write of CTRL with bits 1:0 = 3 is CTRL_RESERVED, which records RESERVED_OP and nothing else, whether busy or not. -/
def Obligations.ReservedCommandRecordsReservedOp : Prop :=
  (∀ (cfg : Config) (d : Word), d.toNat % 4 = 3 → decodeAccess cfg ⟨true, 0x008#18, 4, d⟩ = .ctrlReserved)
    ∧ ∀ s : State,
    exec .ctrlReserved s =
      .next { s with err := true, errCode := .reservedOp, out := { s.out with busErr := false } }

/-! ### Payload memories -/

/-- Memories with the same bytes written are the same data: two canonical memories that read alike at every index are
equal. -/
def Obligations.CanonicalMemoriesAreEqualData : Prop :=
  ∀ m m' : Memory, Memory.wf m = true → Memory.wf m' = true → (∀ i, Memory.read? m i = Memory.read? m' i) → m = m'

/-! ### The codec -/

/-- The checksum values of the rules: the empty list, the worked bytes, the wrap of SUM8 and of SUM16, and the check value of
CRC16; a byte repeated cancels in XOR8. -/
def Obligations.ChecksumExamples : Prop :=
  xor8 [] = 0x00#8 ∧ xor8 [0x01#8, 0x22#8, 0x02#8, 0x00#8, 0x01#8] = 0x20#8 ∧ (∀ x, xor8 [x, x] = 0x00#8)
    ∧ sum8 [] = 0x00#8 ∧ sum8 [0xFF#8, 0x01#8] = 0x00#8 ∧ sum8 [0x01#8, 0x22#8, 0x02#8, 0x00#8, 0x01#8] = 0x26#8
    ∧ sum16 [] = 0x0000#16 ∧ sum16 (List.replicate 300 0xFF#8) = 0x2AD4#16
    ∧ sum16 [0x01#8, 0x22#8, 0x02#8, 0x00#8, 0x00#8, 0x01#8] = 0x0026#16
    ∧ crc16 [] = 0xFFFF#16 ∧ crc16 [0x01#8, 0x22#8, 0x02#8, 0x00#8, 0x01#8] = 0xB873#16
    ∧ crc16 [0x31#8, 0x32#8, 0x33#8, 0x34#8, 0x35#8, 0x36#8, 0x37#8, 0x38#8, 0x39#8] = 0x4B37#16

/-- The encoder lays a frame out as start marker, address, command, length, payload, checksum, without gap or stuffing, of
FRAME_LEN bytes. A length or checksum of two bytes has its high byte first under BE and its low byte first under LE; the
decoder's length field and received checksum read the same values back. -/
def Obligations.EncodedFrameLayout : Prop :=
  ∀ (cfg : Config) (a c : Byte) (p : List Byte), p.length ≤ cfg.maxPayload →
    (encodeFrame cfg a c p).length = cfg.frameLen p.length
      ∧ (encodeFrame cfg a c p).take cfg.startLen = cfg.startBytes
      ∧ byteAt (encodeFrame cfg a c p) cfg.startLen = a
      ∧ byteAt (encodeFrame cfg a c p) (cfg.startLen + 1) = c
      ∧ (cfg.lenW = 1 → byteAt (encodeFrame cfg a c p) (cfg.startLen + 2) = BitVec.ofNat 8 p.length)
      ∧ (cfg.lenW = 2 → cfg.lenOrder = .be →
        byteAt (encodeFrame cfg a c p) (cfg.startLen + 2) = BitVec.ofNat 8 (p.length / 256)
          ∧ byteAt (encodeFrame cfg a c p) (cfg.startLen + 3) = BitVec.ofNat 8 (p.length % 256))
      ∧ (cfg.lenW = 2 → cfg.lenOrder = .le →
        byteAt (encodeFrame cfg a c p) (cfg.startLen + 2) = BitVec.ofNat 8 (p.length % 256)
          ∧ byteAt (encodeFrame cfg a c p) (cfg.startLen + 3) = BitVec.ofNat 8 (p.length / 256))
      ∧ lengthField cfg (encodeFrame cfg a c p) = p.length
      ∧ slice (encodeFrame cfg a c p) cfg.hdrLen (cfg.hdrLen + p.length) = p
      ∧ (∀ v, v = checksum cfg (slice (encodeFrame cfg a c p) cfg.startLen (cfg.hdrLen + p.length)) →
        (cfg.chkW = 1 → byteAt (encodeFrame cfg a c p) (cfg.hdrLen + p.length) = v.extractLsb' 0 8)
          ∧ (cfg.chkW = 2 → cfg.chkOrder = .be →
            byteAt (encodeFrame cfg a c p) (cfg.hdrLen + p.length) = v.extractLsb' 8 8
              ∧ byteAt (encodeFrame cfg a c p) (cfg.hdrLen + p.length + 1) = v.extractLsb' 0 8)
          ∧ (cfg.chkW = 2 → cfg.chkOrder = .le →
            byteAt (encodeFrame cfg a c p) (cfg.hdrLen + p.length) = v.extractLsb' 0 8
              ∧ byteAt (encodeFrame cfg a c p) (cfg.hdrLen + p.length + 1) = v.extractLsb' 8 8)
          ∧ receivedChecksum cfg (encodeFrame cfg a c p) (cfg.frameLen p.length) = v)

/-- Round trip: a frame decodes to its address, command and payload, whatever bytes follow it, and takes exactly its own
length. -/
def Obligations.FrameRoundTrip : Prop :=
  ∀ (cfg : Config) (a c : Byte) (p R : List Byte), p.length ≤ cfg.maxPayload →
    decodeFrame cfg (encodeFrame cfg a c p ++ R) = .ok ⟨a, c, p⟩ (encodeFrame cfg a c p).length

/-- A decoded frame is consistent: its bytes are the encoding of what it says, so its length field equals its payload's
length and its checksum the recomputed one. -/
def Obligations.DecodedFrameIsItsEncoding : Prop :=
  ∀ (cfg : Config) (B : List Byte) (f : Frame) (n : Nat), decodeFrame cfg B = .ok f n →
    f.payload.length ≤ cfg.maxPayload ∧ n = cfg.frameLen f.payload.length ∧ n ≤ B.length
      ∧ lengthField cfg B = f.payload.length
      ∧ checksum cfg (covered cfg f.addr f.cmd f.payload) = receivedChecksum cfg B n
      ∧ B.take n = encodeFrame cfg f.addr f.cmd f.payload

/-- A corrupt result discards at least one byte and at most all of them, up to a plausible start marker or the end. -/
def Obligations.CorruptResultMakesProgress : Prop :=
  ∀ (cfg : Config) (B : List Byte) (r : CorruptReason) (k : Nat), decodeFrame cfg B = .corrupt r k →
    1 ≤ k ∧ k ≤ B.length ∧ (k < B.length → plausible cfg B k = true)
      ∧ ∀ i, 1 ≤ i → i < k → plausible cfg B i = false

/-- Every single-bit error of a frame: in the start marker NO_START; in the address, the command, the payload or the checksum
CHECKSUM, for every algorithm; in the length field LENGTH, Incomplete, or CHECKSUM or a shorter frame. -/
def Obligations.SingleBitErrorsOfAFrame : Prop :=
  ∀ (cfg : Config) (a c : Byte) (p : List Byte) (i j : Nat), p.length ≤ cfg.maxPayload → j < 8 →
    let F := encodeFrame cfg a c p
    let F' := flipBit F i j
    (i < cfg.startLen → ∃ k, decodeFrame cfg F' = .corrupt .noStart k)
      ∧ (cfg.startLen ≤ i → i < cfg.startLen + 2 → ∃ k, decodeFrame cfg F' = .corrupt .checksum k)
      ∧ (cfg.hdrLen ≤ i → i < F.length → ∃ k, decodeFrame cfg F' = .corrupt .checksum k)
      ∧ (cfg.startLen + 2 ≤ i → i < cfg.hdrLen →
        (cfg.maxPayload < lengthField cfg F' → ∃ k, decodeFrame cfg F' = .corrupt .length k)
          ∧ (p.length < lengthField cfg F' → lengthField cfg F' ≤ cfg.maxPayload → decodeFrame cfg F' = .incomplete)
          ∧ (lengthField cfg F' ≤ p.length →
            (∃ k, decodeFrame cfg F' = .corrupt .checksum k)
              ∨ ∃ f n, decodeFrame cfg F' = .ok f n ∧ f.payload.length < p.length ∧ n < F.length))

/-! ### The synchronizer -/

/-- A byte delivered outside RX is discarded: it changes no state. -/
def Obligations.ByteOutsideRxIsDiscarded : Prop :=
  ∀ (s : State) (b : Byte), s.phase ≠ .rx → exec (.evRxByte b) s = .next s

/-- A byte delivered in RX is appended to RXBUF and the decode loop is run to its end: the loop's equation, with no bound on
the number of its turns. -/
def Obligations.RxByteRunsTheDecodeLoop : Prop :=
  (∀ (s : State) (b : Byte), s.phase = .rx → exec (.evRxByte b) s = .next (rxScan { s with rxBuf := s.rxBuf ++ [b] }))
    ∧ ∀ s : State,
        rxScan s =
          match decodeFrame s.cfg s.rxBuf with
          | .incomplete => s
          | .corrupt .noStart k => rxScan { s with rxBuf := s.rxBuf.drop k }
          | .corrupt .length k => rxScan { s with invSeen := true, invRsn := .length, rxBuf := s.rxBuf.drop k }
          | .corrupt .checksum k => rxScan { s with invSeen := true, invRsn := .checksum, rxBuf := s.rxBuf.drop k }
          | .ok f n =>
            if f.cmd = s.reqNakCmd ∨ f.cmd = s.reqRspCmd then (classify f s).2
            else rxScan { s with invSeen := true, invRsn := .unexpected, rxBuf := s.rxBuf.drop n }

/-- After a byte delivered in RX, RXBUF holds an incomplete frame of fewer than MAX_FRAME bytes, whatever it held before. -/
def Obligations.RxBufferStaysBounded : Prop :=
  ∀ (s : State) (b : Byte), s.phase = .rx →
    ∃ t, exec (.evRxByte b) s = .next t ∧ decodeFrame t.cfg t.rxBuf = .incomplete ∧ t.rxBuf.length < t.cfg.maxFrame

/-- A byte that completes the expected response ends the transaction as SUCCESS: address, command, length and payload are
recorded, the working fields are cleared, and everything else, every byte of RXP from RX_LEN on among it, is unchanged. -/
def Obligations.ExpectedResponseEndsInSuccess : Prop :=
  ∀ (s : State) (b : Byte) (f : Frame) (n : Nat), s.phase = .rx →
    decodeFrame s.cfg (s.rxBuf ++ [b]) = .ok f n → f.cmd = s.reqRspCmd → f.cmd ≠ s.reqNakCmd →
      ∃ t, exec (.evRxByte b) s = .next t
        ∧ t = { s with
            phase := .idle, done := true, outcome := .success, reason := .none, rspAddr := f.addr, rspCmdRx := f.cmd,
            rxLen := BitVec.ofNat 16 f.payload.length, rxp := t.rxp, rxBuf := [], txIdx := 0#17, dl := 0#16,
            invSeen := false, invRsn := .none, failRsn := .none }
        ∧ (∀ i, i < f.payload.length → t.rxpByte i = byteAt f.payload i)
        ∧ ∀ i, f.payload.length ≤ i → t.rxpByte i = s.rxpByte i

/-- A byte that completes a NAK frame ends the transaction as NAK, whatever the policy and the attempts are, with the first
payload byte as the reason code; NAK is tested before the expected response. -/
def Obligations.NakFrameEndsInNak : Prop :=
  ∀ (s : State) (b : Byte) (f : Frame) (n : Nat), s.phase = .rx →
    decodeFrame s.cfg (s.rxBuf ++ [b]) = .ok f n → f.cmd = s.reqNakCmd →
      ∃ t, exec (.evRxByte b) s = .next t
        ∧ t = { s with
            phase := .idle, done := true, outcome := .nak, reason := .none, rspAddr := f.addr, rspCmdRx := f.cmd,
            rxLen := BitVec.ofNat 16 f.payload.length, nakValid := decide (1 ≤ f.payload.length),
            nakCode := if 1 ≤ f.payload.length then byteAt f.payload 0 else 0#8, rxp := t.rxp, rxBuf := [],
            txIdx := 0#17, dl := 0#16, invSeen := false, invRsn := .none, failRsn := .none }
        ∧ (∀ i, i < f.payload.length → t.rxpByte i = byteAt f.payload i)
        ∧ ∀ i, f.payload.length ≤ i → t.rxpByte i = s.rxpByte i

/-- Resynchronization: garbage, then a frame with the expected or the NAK command, delivered in RX from an empty buffer, end
the transaction at the last byte of the frame and not before, with the frame's payload. The garbage has no plausible start
marker, or each of its false headers declares a frame that ends within the bytes delivered and fails its checksum or length
check: on the bytes from the false header on, the decoder answers Corrupt. -/
def Obligations.ResynchronizesAfterGarbage : Prop :=
  ∀ (s : State) (G p : List Byte) (a c : Byte), s.phase = .rx → s.rxBuf = [] → p.length ≤ s.cfg.maxPayload →
    (c = s.reqRspCmd ∨ c = s.reqNakCmd) →
    (∀ i, i < G.length → plausible s.cfg (G ++ encodeFrame s.cfg a c p) i = true →
      ∃ r k, decodeFrame s.cfg ((G ++ encodeFrame s.cfg a c p).drop i) = .corrupt r k) →
      (∃ t, execAll (rxEvents (G ++ encodeFrame s.cfg a c p)) s = .next t ∧ t.phase = .idle ∧ t.done = true
        ∧ t.outcome = (if c = s.reqNakCmd then .nak else .success) ∧ t.rspAddr = a ∧ t.rspCmdRx = c
        ∧ t.rxLen.toNat = p.length ∧ ∀ i, i < p.length → t.rxpByte i = byteAt p i)
        ∧ ∀ k, k < (G ++ encodeFrame s.cfg a c p).length →
            ∃ u, execAll (rxEvents ((G ++ encodeFrame s.cfg a c p).take k)) s = .next u ∧ u.phase = .rx

/-- Bytes that begin a frame and do not end it stay buffered and decide nothing, so that a false header which declares a frame
past the end of what is delivered hides a frame behind it. -/
def Obligations.IncompleteBytesStayBuffered : Prop :=
  ∀ (s : State) (B : List Byte), s.phase = .rx → s.rxBuf = [] → decodeFrame s.cfg B = .incomplete →
    execAll (rxEvents B) s = .next { s with rxBuf := B }

/-! ### The sequencer -/

/-- A TX byte accepted in TX advances TXIDX, and the last one of the frame enters RX; nothing else changes. Outside TX it does
nothing. -/
def Obligations.TxAcceptAdvancesTheFrame : Prop :=
  ∀ s : State,
    (s.phase = .tx → s.txIdx.toNat < s.cfg.frameLen s.txLen.toNat → s.txLen.toNat ≤ s.cfg.maxPayload →
      ∃ t, exec .evTxAccept s = .next t ∧ t = { s with txIdx := t.txIdx, phase := t.phase }
        ∧ t.txIdx.toNat = s.txIdx.toNat + 1
        ∧ t.phase = if s.txIdx.toNat + 1 = s.cfg.frameLen s.txLen.toNat then .rx else .tx)
      ∧ (s.phase ≠ .tx → exec .evTxAccept s = .next s)

/-- A channel failure in TX or RX enters HOLDOFF with its reason and empties RXBUF; in IDLE and HOLDOFF it does nothing. -/
def Obligations.ChannelFailureEntersHoldoff : Prop :=
  ∀ s : State,
    ((s.phase = .tx ∨ s.phase = .rx) →
      exec .evChClosed s = .next { s with phase := .holdoff, failRsn := .closed, rxBuf := [] }
        ∧ exec .evChError s = .next { s with phase := .holdoff, failRsn := .ioError, rxBuf := [] })
      ∧ ((s.phase = .idle ∨ s.phase = .holdoff) → exec .evChClosed s = .next s ∧ exec .evChError s = .next s)

/-- A tick while busy that is not the last of the attempt only decrements DL; a tick in IDLE does nothing. -/
def Obligations.TickCountsDown : Prop :=
  ∀ s : State,
    (s.phase ≠ .idle → 1 < s.dl.toNat →
      ∃ t, exec .evTick s = .next t ∧ t = { s with dl := t.dl } ∧ t.dl.toNat = s.dl.toNat - 1)
      ∧ (s.phase = .idle → exec .evTick s = .next s)

/-- The tick that expires an attempt: where the failure may be retried the next attempt starts with the whole frame, else the
transaction ends with the kind and the reason of this attempt. -/
def Obligations.ExpiryRetriesOrEnds : Prop :=
  ∀ s : State, s.phase ≠ .idle → s.dl = 1#16 →
    (mayRetry s (attemptFailure s).1 →
      exec .evTick s =
        .next { s with
          attempts := s.attempts + 1#9, phase := .tx, txIdx := 0#17, dl := s.timeout, rxBuf := [], invSeen := false,
          invRsn := .none, failRsn := .none })
      ∧ (¬ mayRetry s (attemptFailure s).1 →
        exec .evTick s =
          .next { s with
            phase := .idle, done := true, outcome := (attemptFailure s).1, reason := (attemptFailure s).2, rxBuf := [],
            txIdx := 0#17, dl := 0#16, invSeen := false, invRsn := .none, failRsn := .none })

/-- The phase transitions, complete: no operation makes any other. -/
def Obligations.PhaseTransitionsAreComplete : Prop :=
  ∀ (i : Instr) (s t : State), exec i s = .next t →
    t.phase = s.phase
      ∨ (s.phase = .idle ∧ t.phase = .tx ∧ i = .ctrlExecute ∧ s.txLen.toNat ≤ s.cfg.maxPayload ∧ s.timeout ≠ 0#16)
      ∨ (s.phase = .tx ∧ t.phase = .rx ∧ i = .evTxAccept ∧ t.txIdx.toNat = s.cfg.frameLen s.txLen.toNat)
      ∨ ((s.phase = .tx ∨ s.phase = .rx) ∧ t.phase = .holdoff ∧ (i = .evChClosed ∨ i = .evChError))
      ∨ (s.phase = .rx ∧ t.phase = .idle ∧ t.done = true ∧ (t.outcome = .success ∨ t.outcome = .nak) ∧ ∃ b, i = .evRxByte b)
      ∨ (s.phase ≠ .idle ∧ t.phase = .tx ∧ i = .evTick ∧ s.dl = 1#16 ∧ mayRetry s (attemptFailure s).1)
      ∨ (s.phase ≠ .idle ∧ t.phase = .idle ∧ t.done = true ∧ i = .evTick ∧ s.dl = 1#16
        ∧ ¬ mayRetry s (attemptFailure s).1)

/-- The request is frozen while a transaction runs: no operation on a busy block changes REQ, TX_LEN, POLICY or TXP, so the
frame on the wire is the same for every byte of every attempt. -/
def Obligations.RequestIsFrozenWhileBusy : Prop :=
  ∀ (i : Instr) (s t : State), s.phase ≠ .idle → exec i s = .next t →
    t.req = s.req ∧ t.txLen = s.txLen ∧ t.policy = s.policy ∧ t.txp = s.txp ∧ t.txFrame = s.txFrame

/-- What sets and clears the flags: DONE is set only by the end of a transaction and cleared only by EXECUTE and ACK; ERR is
sticky, cleared only by ACK, and set only by a refused command or write; INV_SEEN is set only by a received byte, and cleared
only by the start of an attempt or by the end of the transaction. -/
def Obligations.FlagsAreSetAndClearedAsStated : Prop :=
  ∀ (i : Instr) (s t : State), exec i s = .next t →
    (s.done = false → t.done = true → s.phase ≠ .idle ∧ t.phase = .idle)
      ∧ (s.done = true → t.done = false → i = .ctrlAck ∨ (i = .ctrlExecute ∧ s.phase = .idle ∧ t.phase = .tx))
      ∧ (s.err = true → t.err = false → i = .ctrlAck)
      ∧ (s.err = false → t.err = true →
        (i = .ctrlExecute ∧ t.phase = s.phase) ∨ i = .ctrlReserved
          ∨ (s.phase ≠ .idle ∧ ∃ d n p w, i = .wrReq d ∨ i = .wrTxlen n ∨ i = .wrPolicy p ∨ i = .wrTxp w d))
      ∧ (s.invSeen = false → t.invSeen = true → s.phase = .rx ∧ ∃ b, i = .evRxByte b)
      ∧ (s.invSeen = true → t.invSeen = false →
        (t.phase = .tx ∧ t.txIdx = 0#17 ∧ t.dl = s.timeout
          ∧ ((i = .ctrlExecute ∧ s.phase = .idle ∧ t.attempts = 1#9)
            ∨ (i = .evTick ∧ s.phase ≠ .idle ∧ t.attempts = s.attempts + 1#9)))
          ∨ (s.phase ≠ .idle ∧ t.phase = .idle ∧ t.done = true))

/-- The outcome of a transaction stays, with its reason, its result fields, its attempts and its payload, until the next
accepted EXECUTE: no other operation on an idle block changes them. -/
def Obligations.OutcomeStaysUntilTheNextExecute : Prop :=
  ∀ (i : Instr) (s t : State), s.phase = .idle → t.phase = .idle → exec i s = .next t →
    t.outcome = s.outcome ∧ t.reason = s.reason ∧ t.rspAddr = s.rspAddr ∧ t.rspCmdRx = s.rspCmdRx ∧ t.rxLen = s.rxLen
      ∧ t.nakCode = s.nakCode ∧ t.nakValid = s.nakValid ∧ t.attempts = s.attempts ∧ t.rxp = s.rxp ∧ t.dl = s.dl

/-- A terminal frame wins over a channel failure and over an expiring tick of its cycle: whatever else the channel does in
the cycle, the transaction ends with the frame's outcome. -/
def Obligations.TerminalFrameWinsItsCycle : Prop :=
  ∀ (s : State) (c : Cycle) (rest : List Cycle) (f : Frame) (n : Nat), s.inputs = c :: rest → c.rst = false →
    c.access = none → c.rxValid = true → s.phase = .rx → decodeFrame s.cfg (s.rxBuf ++ [c.rxData]) = .ok f n →
    (f.cmd = s.reqNakCmd ∨ f.cmd = s.reqRspCmd) →
      ∃ t, step s = .next t ∧ t.phase = .idle ∧ t.done = true ∧ t.reason = .none ∧ t.attempts = s.attempts
        ∧ t.outcome = (if f.cmd = s.reqNakCmd then .nak else .success)

/-! ### The invariant and the bounds -/

/-- The invariant of the block holds right after reset, in a block of any dialect (State.reset is the one of profile REF, the
model's choice, log 1). -/
def Obligations.InvariantHoldsAtReset : Prop :=
  Inv State.reset ∧ ∀ cfg : Config, Inv { State.reset with cfg := cfg }

/-- The invariant of the block is kept by every step, from every state that meets it and with every input. -/
def Obligations.StepKeepsTheInvariant : Prop :=
  ∀ s t : State, Inv s → step s = .next t → Inv t

/-- Every transaction ends within its tick budget: whatever the channel delivers and the host reads or writes, if the cycles
to come carry `(MAX_RETRIES + 1) * TIMEOUT` ticks and no reset, then one of them, before which fewer ticks were counted, ends
the transaction with an outcome in its channel and tick sub-steps. The block is then idle after that cycle with that outcome,
unless its own host write starts the next transaction. -/
def Obligations.TransactionEndsWithinItsTicks : Prop :=
  ∀ s : State, Inv s → s.phase ≠ .idle → (∀ c ∈ s.inputs, c.rst = false) → tickBudget s ≤ tickCount s.inputs →
    ∃ (cs rest : List Cycle) (c : Cycle) (u e : State),
      s.inputs = cs ++ c :: rest ∧ tickCount cs < tickBudget s
        ∧ core.run cs.length s = .next u ∧ u.phase ≠ .idle
        ∧ e = channelSteps c u ∧ e.phase = .idle ∧ e.done = true ∧ e.outcome ≠ .none
        ∧ (startsNothing s.cfg c →
          ∃ t, core.run (cs.length + 1) s = .next t ∧ t.phase = .idle ∧ t.outcome = e.outcome ∧ t.reason = e.reason)

/-- The retry budget: with RETRY_ON_TIMEOUT set and a channel that delivers no byte and reports no failure, the transaction
makes one attempt every TIMEOUT ticks, whatever the host reads or writes meanwhile; the tick that uses up the budget ends it as
TIMEOUT with reason DEADLINE after exactly MAX_RETRIES + 1 attempts, and that result stays until an EXECUTE. It is so whether or
not the channel accepts the bytes of the request. -/
def Obligations.SilentChannelUsesTheRetryBudget : Prop :=
  ∀ s : State, Inv s → s.phase = .tx → s.attempts = 1#9 → s.dl = s.timeout → s.retryOnTimeout = true →
    (∀ c ∈ s.inputs, silentChannel c) →
      (tickCount s.inputs < tickBudget s →
        ∃ t, core.run s.inputs.length s = .next t ∧ t.phase ≠ .idle
          ∧ t.attempts.toNat = tickCount s.inputs / s.timeout.toNat + 1)
        ∧ ∀ (cs rest : List Cycle) (c : Cycle),
          s.inputs = cs ++ c :: rest → tickCount cs + 1 = tickBudget s → c.isTick = true →
            ∃ u e, core.run cs.length s = .next u ∧ u.phase ≠ .idle ∧ e = channelSteps c u
              ∧ e.phase = .idle ∧ e.done = true ∧ e.outcome = .timeout ∧ e.reason = .deadline
              ∧ e.attempts.toNat = s.maxRetries.toNat + 1
              ∧ ((∀ d ∈ c :: rest, startsNothing s.cfg d) →
                ∃ t, core.run s.inputs.length s = .next t ∧ t.phase = .idle ∧ t.outcome = .timeout
                  ∧ t.reason = .deadline ∧ t.attempts.toNat = s.maxRetries.toNat + 1)

/-! ### The configuration and the script notation -/

/-- A block is built exactly for the legal configurations, with the values asked for. -/
def Obligations.OnlyLegalConfigurationsAreBuilt : Prop :=
  ∀ r : RawConfig,
    ((buildConfig r).isSome = true ↔
      (r.startLen = 1 ∨ r.startLen = 2) ∧ (r.lenW = 1 ∨ r.lenW = 2) ∧ r.lenOrder ≤ 1 ∧ r.chkAlg ≤ 3 ∧ r.chkOrder ≤ 1
        ∧ r.maxPayload ≤ 2 ^ (8 * r.lenW) - 1)
      ∧ ∀ cfg, buildConfig r = some cfg →
          cfg.startLen = r.startLen ∧ cfg.start0 = r.start0 ∧ (r.startLen = 2 → cfg.start1 = r.start1)
            ∧ cfg.lenW = r.lenW ∧ cfg.lenOrder.code = r.lenOrder ∧ cfg.chkAlg.code = r.chkAlg
            ∧ cfg.chkOrder.code = r.chkOrder ∧ cfg.maxPayload = r.maxPayload
            ∧ cfg.chkW = (if r.chkAlg ≤ 1 then 1 else 2)
end

