-- ==== Sys2Proof/Laws/State.lean ====
section
/-! SUPPORT. The fields of a state after each named update: one lemma per field and update, so that no proof unfolds a record
update. -/

namespace Sys2Proof.Machine

/-! ### answerRead -/

@[simp] theorem answerRead_cfg (v : Word) (s : State) : (answerRead v s).cfg = s.cfg := rfl
@[simp] theorem answerRead_phase (v : Word) (s : State) : (answerRead v s).phase = s.phase := rfl
@[simp] theorem answerRead_done (v : Word) (s : State) : (answerRead v s).done = s.done := rfl
@[simp] theorem answerRead_err (v : Word) (s : State) : (answerRead v s).err = s.err := rfl
@[simp] theorem answerRead_errCode (v : Word) (s : State) : (answerRead v s).errCode = s.errCode := rfl
@[simp] theorem answerRead_outcome (v : Word) (s : State) : (answerRead v s).outcome = s.outcome := rfl
@[simp] theorem answerRead_reason (v : Word) (s : State) : (answerRead v s).reason = s.reason := rfl
@[simp] theorem answerRead_req (v : Word) (s : State) : (answerRead v s).req = s.req := rfl
@[simp] theorem answerRead_txLen (v : Word) (s : State) : (answerRead v s).txLen = s.txLen := rfl
@[simp] theorem answerRead_policy (v : Word) (s : State) : (answerRead v s).policy = s.policy := rfl
@[simp] theorem answerRead_rspAddr (v : Word) (s : State) : (answerRead v s).rspAddr = s.rspAddr := rfl
@[simp] theorem answerRead_rspCmdRx (v : Word) (s : State) : (answerRead v s).rspCmdRx = s.rspCmdRx := rfl
@[simp] theorem answerRead_rxLen (v : Word) (s : State) : (answerRead v s).rxLen = s.rxLen := rfl
@[simp] theorem answerRead_nakCode (v : Word) (s : State) : (answerRead v s).nakCode = s.nakCode := rfl
@[simp] theorem answerRead_nakValid (v : Word) (s : State) : (answerRead v s).nakValid = s.nakValid := rfl
@[simp] theorem answerRead_attempts (v : Word) (s : State) : (answerRead v s).attempts = s.attempts := rfl
@[simp] theorem answerRead_dl (v : Word) (s : State) : (answerRead v s).dl = s.dl := rfl
@[simp] theorem answerRead_txIdx (v : Word) (s : State) : (answerRead v s).txIdx = s.txIdx := rfl
@[simp] theorem answerRead_rxBuf (v : Word) (s : State) : (answerRead v s).rxBuf = s.rxBuf := rfl
@[simp] theorem answerRead_invSeen (v : Word) (s : State) : (answerRead v s).invSeen = s.invSeen := rfl
@[simp] theorem answerRead_invRsn (v : Word) (s : State) : (answerRead v s).invRsn = s.invRsn := rfl
@[simp] theorem answerRead_failRsn (v : Word) (s : State) : (answerRead v s).failRsn = s.failRsn := rfl
@[simp] theorem answerRead_txp (v : Word) (s : State) : (answerRead v s).txp = s.txp := rfl
@[simp] theorem answerRead_rxp (v : Word) (s : State) : (answerRead v s).rxp = s.rxp := rfl
@[simp] theorem answerRead_epoch (v : Word) (s : State) : (answerRead v s).epoch = s.epoch := rfl
@[simp] theorem answerRead_out (v : Word) (s : State) : (answerRead v s).out = { s.out with hrdata := v, busErr := false } := rfl
@[simp] theorem answerRead_inputs (v : Word) (s : State) : (answerRead v s).inputs = s.inputs := rfl

/-! ### answerWrite -/

@[simp] theorem answerWrite_cfg (s : State) : (answerWrite s).cfg = s.cfg := rfl
@[simp] theorem answerWrite_phase (s : State) : (answerWrite s).phase = s.phase := rfl
@[simp] theorem answerWrite_done (s : State) : (answerWrite s).done = s.done := rfl
@[simp] theorem answerWrite_err (s : State) : (answerWrite s).err = s.err := rfl
@[simp] theorem answerWrite_errCode (s : State) : (answerWrite s).errCode = s.errCode := rfl
@[simp] theorem answerWrite_outcome (s : State) : (answerWrite s).outcome = s.outcome := rfl
@[simp] theorem answerWrite_reason (s : State) : (answerWrite s).reason = s.reason := rfl
@[simp] theorem answerWrite_req (s : State) : (answerWrite s).req = s.req := rfl
@[simp] theorem answerWrite_txLen (s : State) : (answerWrite s).txLen = s.txLen := rfl
@[simp] theorem answerWrite_policy (s : State) : (answerWrite s).policy = s.policy := rfl
@[simp] theorem answerWrite_rspAddr (s : State) : (answerWrite s).rspAddr = s.rspAddr := rfl
@[simp] theorem answerWrite_rspCmdRx (s : State) : (answerWrite s).rspCmdRx = s.rspCmdRx := rfl
@[simp] theorem answerWrite_rxLen (s : State) : (answerWrite s).rxLen = s.rxLen := rfl
@[simp] theorem answerWrite_nakCode (s : State) : (answerWrite s).nakCode = s.nakCode := rfl
@[simp] theorem answerWrite_nakValid (s : State) : (answerWrite s).nakValid = s.nakValid := rfl
@[simp] theorem answerWrite_attempts (s : State) : (answerWrite s).attempts = s.attempts := rfl
@[simp] theorem answerWrite_dl (s : State) : (answerWrite s).dl = s.dl := rfl
@[simp] theorem answerWrite_txIdx (s : State) : (answerWrite s).txIdx = s.txIdx := rfl
@[simp] theorem answerWrite_rxBuf (s : State) : (answerWrite s).rxBuf = s.rxBuf := rfl
@[simp] theorem answerWrite_invSeen (s : State) : (answerWrite s).invSeen = s.invSeen := rfl
@[simp] theorem answerWrite_invRsn (s : State) : (answerWrite s).invRsn = s.invRsn := rfl
@[simp] theorem answerWrite_failRsn (s : State) : (answerWrite s).failRsn = s.failRsn := rfl
@[simp] theorem answerWrite_txp (s : State) : (answerWrite s).txp = s.txp := rfl
@[simp] theorem answerWrite_rxp (s : State) : (answerWrite s).rxp = s.rxp := rfl
@[simp] theorem answerWrite_epoch (s : State) : (answerWrite s).epoch = s.epoch := rfl
@[simp] theorem answerWrite_out (s : State) : (answerWrite s).out = { s.out with busErr := false } := rfl
@[simp] theorem answerWrite_inputs (s : State) : (answerWrite s).inputs = s.inputs := rfl

/-! ### busErrorAnswer -/

@[simp] theorem busErrorAnswer_cfg (w : Bool) (s : State) : (busErrorAnswer w s).cfg = s.cfg := rfl
@[simp] theorem busErrorAnswer_phase (w : Bool) (s : State) : (busErrorAnswer w s).phase = s.phase := rfl
@[simp] theorem busErrorAnswer_done (w : Bool) (s : State) : (busErrorAnswer w s).done = s.done := rfl
@[simp] theorem busErrorAnswer_err (w : Bool) (s : State) : (busErrorAnswer w s).err = s.err := rfl
@[simp] theorem busErrorAnswer_errCode (w : Bool) (s : State) : (busErrorAnswer w s).errCode = s.errCode := rfl
@[simp] theorem busErrorAnswer_outcome (w : Bool) (s : State) : (busErrorAnswer w s).outcome = s.outcome := rfl
@[simp] theorem busErrorAnswer_reason (w : Bool) (s : State) : (busErrorAnswer w s).reason = s.reason := rfl
@[simp] theorem busErrorAnswer_req (w : Bool) (s : State) : (busErrorAnswer w s).req = s.req := rfl
@[simp] theorem busErrorAnswer_txLen (w : Bool) (s : State) : (busErrorAnswer w s).txLen = s.txLen := rfl
@[simp] theorem busErrorAnswer_policy (w : Bool) (s : State) : (busErrorAnswer w s).policy = s.policy := rfl
@[simp] theorem busErrorAnswer_rspAddr (w : Bool) (s : State) : (busErrorAnswer w s).rspAddr = s.rspAddr := rfl
@[simp] theorem busErrorAnswer_rspCmdRx (w : Bool) (s : State) : (busErrorAnswer w s).rspCmdRx = s.rspCmdRx := rfl
@[simp] theorem busErrorAnswer_rxLen (w : Bool) (s : State) : (busErrorAnswer w s).rxLen = s.rxLen := rfl
@[simp] theorem busErrorAnswer_nakCode (w : Bool) (s : State) : (busErrorAnswer w s).nakCode = s.nakCode := rfl
@[simp] theorem busErrorAnswer_nakValid (w : Bool) (s : State) : (busErrorAnswer w s).nakValid = s.nakValid := rfl
@[simp] theorem busErrorAnswer_attempts (w : Bool) (s : State) : (busErrorAnswer w s).attempts = s.attempts := rfl
@[simp] theorem busErrorAnswer_dl (w : Bool) (s : State) : (busErrorAnswer w s).dl = s.dl := rfl
@[simp] theorem busErrorAnswer_txIdx (w : Bool) (s : State) : (busErrorAnswer w s).txIdx = s.txIdx := rfl
@[simp] theorem busErrorAnswer_rxBuf (w : Bool) (s : State) : (busErrorAnswer w s).rxBuf = s.rxBuf := rfl
@[simp] theorem busErrorAnswer_invSeen (w : Bool) (s : State) : (busErrorAnswer w s).invSeen = s.invSeen := rfl
@[simp] theorem busErrorAnswer_invRsn (w : Bool) (s : State) : (busErrorAnswer w s).invRsn = s.invRsn := rfl
@[simp] theorem busErrorAnswer_failRsn (w : Bool) (s : State) : (busErrorAnswer w s).failRsn = s.failRsn := rfl
@[simp] theorem busErrorAnswer_txp (w : Bool) (s : State) : (busErrorAnswer w s).txp = s.txp := rfl
@[simp] theorem busErrorAnswer_rxp (w : Bool) (s : State) : (busErrorAnswer w s).rxp = s.rxp := rfl
@[simp] theorem busErrorAnswer_epoch (w : Bool) (s : State) : (busErrorAnswer w s).epoch = s.epoch := rfl
@[simp] theorem busErrorAnswer_out (w : Bool) (s : State) : (busErrorAnswer w s).out = { s.out with hrdata := if w then s.out.hrdata else 0#32, busErr := true } := rfl
@[simp] theorem busErrorAnswer_inputs (w : Bool) (s : State) : (busErrorAnswer w s).inputs = s.inputs := rfl

/-! ### setErr -/

@[simp] theorem setErr_cfg (c : ErrCode) (s : State) : (setErr c s).cfg = s.cfg := rfl
@[simp] theorem setErr_phase (c : ErrCode) (s : State) : (setErr c s).phase = s.phase := rfl
@[simp] theorem setErr_done (c : ErrCode) (s : State) : (setErr c s).done = s.done := rfl
@[simp] theorem setErr_err (c : ErrCode) (s : State) : (setErr c s).err = true := rfl
@[simp] theorem setErr_errCode (c : ErrCode) (s : State) : (setErr c s).errCode = c := rfl
@[simp] theorem setErr_outcome (c : ErrCode) (s : State) : (setErr c s).outcome = s.outcome := rfl
@[simp] theorem setErr_reason (c : ErrCode) (s : State) : (setErr c s).reason = s.reason := rfl
@[simp] theorem setErr_req (c : ErrCode) (s : State) : (setErr c s).req = s.req := rfl
@[simp] theorem setErr_txLen (c : ErrCode) (s : State) : (setErr c s).txLen = s.txLen := rfl
@[simp] theorem setErr_policy (c : ErrCode) (s : State) : (setErr c s).policy = s.policy := rfl
@[simp] theorem setErr_rspAddr (c : ErrCode) (s : State) : (setErr c s).rspAddr = s.rspAddr := rfl
@[simp] theorem setErr_rspCmdRx (c : ErrCode) (s : State) : (setErr c s).rspCmdRx = s.rspCmdRx := rfl
@[simp] theorem setErr_rxLen (c : ErrCode) (s : State) : (setErr c s).rxLen = s.rxLen := rfl
@[simp] theorem setErr_nakCode (c : ErrCode) (s : State) : (setErr c s).nakCode = s.nakCode := rfl
@[simp] theorem setErr_nakValid (c : ErrCode) (s : State) : (setErr c s).nakValid = s.nakValid := rfl
@[simp] theorem setErr_attempts (c : ErrCode) (s : State) : (setErr c s).attempts = s.attempts := rfl
@[simp] theorem setErr_dl (c : ErrCode) (s : State) : (setErr c s).dl = s.dl := rfl
@[simp] theorem setErr_txIdx (c : ErrCode) (s : State) : (setErr c s).txIdx = s.txIdx := rfl
@[simp] theorem setErr_rxBuf (c : ErrCode) (s : State) : (setErr c s).rxBuf = s.rxBuf := rfl
@[simp] theorem setErr_invSeen (c : ErrCode) (s : State) : (setErr c s).invSeen = s.invSeen := rfl
@[simp] theorem setErr_invRsn (c : ErrCode) (s : State) : (setErr c s).invRsn = s.invRsn := rfl
@[simp] theorem setErr_failRsn (c : ErrCode) (s : State) : (setErr c s).failRsn = s.failRsn := rfl
@[simp] theorem setErr_txp (c : ErrCode) (s : State) : (setErr c s).txp = s.txp := rfl
@[simp] theorem setErr_rxp (c : ErrCode) (s : State) : (setErr c s).rxp = s.rxp := rfl
@[simp] theorem setErr_epoch (c : ErrCode) (s : State) : (setErr c s).epoch = s.epoch := rfl
@[simp] theorem setErr_out (c : ErrCode) (s : State) : (setErr c s).out = s.out := rfl
@[simp] theorem setErr_inputs (c : ErrCode) (s : State) : (setErr c s).inputs = s.inputs := rfl

/-! ### acknowledge -/

@[simp] theorem acknowledge_cfg (s : State) : (acknowledge s).cfg = s.cfg := rfl
@[simp] theorem acknowledge_phase (s : State) : (acknowledge s).phase = s.phase := rfl
@[simp] theorem acknowledge_done (s : State) : (acknowledge s).done = false := rfl
@[simp] theorem acknowledge_err (s : State) : (acknowledge s).err = false := rfl
@[simp] theorem acknowledge_errCode (s : State) : (acknowledge s).errCode = .none := rfl
@[simp] theorem acknowledge_outcome (s : State) : (acknowledge s).outcome = s.outcome := rfl
@[simp] theorem acknowledge_reason (s : State) : (acknowledge s).reason = s.reason := rfl
@[simp] theorem acknowledge_req (s : State) : (acknowledge s).req = s.req := rfl
@[simp] theorem acknowledge_txLen (s : State) : (acknowledge s).txLen = s.txLen := rfl
@[simp] theorem acknowledge_policy (s : State) : (acknowledge s).policy = s.policy := rfl
@[simp] theorem acknowledge_rspAddr (s : State) : (acknowledge s).rspAddr = s.rspAddr := rfl
@[simp] theorem acknowledge_rspCmdRx (s : State) : (acknowledge s).rspCmdRx = s.rspCmdRx := rfl
@[simp] theorem acknowledge_rxLen (s : State) : (acknowledge s).rxLen = s.rxLen := rfl
@[simp] theorem acknowledge_nakCode (s : State) : (acknowledge s).nakCode = s.nakCode := rfl
@[simp] theorem acknowledge_nakValid (s : State) : (acknowledge s).nakValid = s.nakValid := rfl
@[simp] theorem acknowledge_attempts (s : State) : (acknowledge s).attempts = s.attempts := rfl
@[simp] theorem acknowledge_dl (s : State) : (acknowledge s).dl = s.dl := rfl
@[simp] theorem acknowledge_txIdx (s : State) : (acknowledge s).txIdx = s.txIdx := rfl
@[simp] theorem acknowledge_rxBuf (s : State) : (acknowledge s).rxBuf = s.rxBuf := rfl
@[simp] theorem acknowledge_invSeen (s : State) : (acknowledge s).invSeen = s.invSeen := rfl
@[simp] theorem acknowledge_invRsn (s : State) : (acknowledge s).invRsn = s.invRsn := rfl
@[simp] theorem acknowledge_failRsn (s : State) : (acknowledge s).failRsn = s.failRsn := rfl
@[simp] theorem acknowledge_txp (s : State) : (acknowledge s).txp = s.txp := rfl
@[simp] theorem acknowledge_rxp (s : State) : (acknowledge s).rxp = s.rxp := rfl
@[simp] theorem acknowledge_epoch (s : State) : (acknowledge s).epoch = s.epoch := rfl
@[simp] theorem acknowledge_out (s : State) : (acknowledge s).out = s.out := rfl
@[simp] theorem acknowledge_inputs (s : State) : (acknowledge s).inputs = s.inputs := rfl

/-! ### beginCycle -/

@[simp] theorem beginCycle_cfg (s : State) : (beginCycle s).cfg = s.cfg := rfl
@[simp] theorem beginCycle_phase (s : State) : (beginCycle s).phase = s.phase := rfl
@[simp] theorem beginCycle_done (s : State) : (beginCycle s).done = s.done := rfl
@[simp] theorem beginCycle_err (s : State) : (beginCycle s).err = s.err := rfl
@[simp] theorem beginCycle_errCode (s : State) : (beginCycle s).errCode = s.errCode := rfl
@[simp] theorem beginCycle_outcome (s : State) : (beginCycle s).outcome = s.outcome := rfl
@[simp] theorem beginCycle_reason (s : State) : (beginCycle s).reason = s.reason := rfl
@[simp] theorem beginCycle_req (s : State) : (beginCycle s).req = s.req := rfl
@[simp] theorem beginCycle_txLen (s : State) : (beginCycle s).txLen = s.txLen := rfl
@[simp] theorem beginCycle_policy (s : State) : (beginCycle s).policy = s.policy := rfl
@[simp] theorem beginCycle_rspAddr (s : State) : (beginCycle s).rspAddr = s.rspAddr := rfl
@[simp] theorem beginCycle_rspCmdRx (s : State) : (beginCycle s).rspCmdRx = s.rspCmdRx := rfl
@[simp] theorem beginCycle_rxLen (s : State) : (beginCycle s).rxLen = s.rxLen := rfl
@[simp] theorem beginCycle_nakCode (s : State) : (beginCycle s).nakCode = s.nakCode := rfl
@[simp] theorem beginCycle_nakValid (s : State) : (beginCycle s).nakValid = s.nakValid := rfl
@[simp] theorem beginCycle_attempts (s : State) : (beginCycle s).attempts = s.attempts := rfl
@[simp] theorem beginCycle_dl (s : State) : (beginCycle s).dl = s.dl := rfl
@[simp] theorem beginCycle_txIdx (s : State) : (beginCycle s).txIdx = s.txIdx := rfl
@[simp] theorem beginCycle_rxBuf (s : State) : (beginCycle s).rxBuf = s.rxBuf := rfl
@[simp] theorem beginCycle_invSeen (s : State) : (beginCycle s).invSeen = s.invSeen := rfl
@[simp] theorem beginCycle_invRsn (s : State) : (beginCycle s).invRsn = s.invRsn := rfl
@[simp] theorem beginCycle_failRsn (s : State) : (beginCycle s).failRsn = s.failRsn := rfl
@[simp] theorem beginCycle_txp (s : State) : (beginCycle s).txp = s.txp := rfl
@[simp] theorem beginCycle_rxp (s : State) : (beginCycle s).rxp = s.rxp := rfl
@[simp] theorem beginCycle_epoch (s : State) : (beginCycle s).epoch = s.epoch := rfl
@[simp] theorem beginCycle_out (s : State) : (beginCycle s).out = cycleOutputs s := rfl
@[simp] theorem beginCycle_inputs (s : State) : (beginCycle s).inputs = s.inputs := rfl

/-! ### takeCycle -/

@[simp] theorem takeCycle_cfg (s : State) : (takeCycle s).cfg = s.cfg := rfl
@[simp] theorem takeCycle_phase (s : State) : (takeCycle s).phase = s.phase := rfl
@[simp] theorem takeCycle_done (s : State) : (takeCycle s).done = s.done := rfl
@[simp] theorem takeCycle_err (s : State) : (takeCycle s).err = s.err := rfl
@[simp] theorem takeCycle_errCode (s : State) : (takeCycle s).errCode = s.errCode := rfl
@[simp] theorem takeCycle_outcome (s : State) : (takeCycle s).outcome = s.outcome := rfl
@[simp] theorem takeCycle_reason (s : State) : (takeCycle s).reason = s.reason := rfl
@[simp] theorem takeCycle_req (s : State) : (takeCycle s).req = s.req := rfl
@[simp] theorem takeCycle_txLen (s : State) : (takeCycle s).txLen = s.txLen := rfl
@[simp] theorem takeCycle_policy (s : State) : (takeCycle s).policy = s.policy := rfl
@[simp] theorem takeCycle_rspAddr (s : State) : (takeCycle s).rspAddr = s.rspAddr := rfl
@[simp] theorem takeCycle_rspCmdRx (s : State) : (takeCycle s).rspCmdRx = s.rspCmdRx := rfl
@[simp] theorem takeCycle_rxLen (s : State) : (takeCycle s).rxLen = s.rxLen := rfl
@[simp] theorem takeCycle_nakCode (s : State) : (takeCycle s).nakCode = s.nakCode := rfl
@[simp] theorem takeCycle_nakValid (s : State) : (takeCycle s).nakValid = s.nakValid := rfl
@[simp] theorem takeCycle_attempts (s : State) : (takeCycle s).attempts = s.attempts := rfl
@[simp] theorem takeCycle_dl (s : State) : (takeCycle s).dl = s.dl := rfl
@[simp] theorem takeCycle_txIdx (s : State) : (takeCycle s).txIdx = s.txIdx := rfl
@[simp] theorem takeCycle_rxBuf (s : State) : (takeCycle s).rxBuf = s.rxBuf := rfl
@[simp] theorem takeCycle_invSeen (s : State) : (takeCycle s).invSeen = s.invSeen := rfl
@[simp] theorem takeCycle_invRsn (s : State) : (takeCycle s).invRsn = s.invRsn := rfl
@[simp] theorem takeCycle_failRsn (s : State) : (takeCycle s).failRsn = s.failRsn := rfl
@[simp] theorem takeCycle_txp (s : State) : (takeCycle s).txp = s.txp := rfl
@[simp] theorem takeCycle_rxp (s : State) : (takeCycle s).rxp = s.rxp := rfl
@[simp] theorem takeCycle_epoch (s : State) : (takeCycle s).epoch = s.epoch := rfl
@[simp] theorem takeCycle_out (s : State) : (takeCycle s).out = s.out := rfl
@[simp] theorem takeCycle_inputs (s : State) : (takeCycle s).inputs = s.inputs.tail := rfl

/-! ### putCycle -/

@[simp] theorem putCycle_cfg (c : Cycle) (s : State) : (putCycle c s).cfg = s.cfg := rfl
@[simp] theorem putCycle_phase (c : Cycle) (s : State) : (putCycle c s).phase = s.phase := rfl
@[simp] theorem putCycle_done (c : Cycle) (s : State) : (putCycle c s).done = s.done := rfl
@[simp] theorem putCycle_err (c : Cycle) (s : State) : (putCycle c s).err = s.err := rfl
@[simp] theorem putCycle_errCode (c : Cycle) (s : State) : (putCycle c s).errCode = s.errCode := rfl
@[simp] theorem putCycle_outcome (c : Cycle) (s : State) : (putCycle c s).outcome = s.outcome := rfl
@[simp] theorem putCycle_reason (c : Cycle) (s : State) : (putCycle c s).reason = s.reason := rfl
@[simp] theorem putCycle_req (c : Cycle) (s : State) : (putCycle c s).req = s.req := rfl
@[simp] theorem putCycle_txLen (c : Cycle) (s : State) : (putCycle c s).txLen = s.txLen := rfl
@[simp] theorem putCycle_policy (c : Cycle) (s : State) : (putCycle c s).policy = s.policy := rfl
@[simp] theorem putCycle_rspAddr (c : Cycle) (s : State) : (putCycle c s).rspAddr = s.rspAddr := rfl
@[simp] theorem putCycle_rspCmdRx (c : Cycle) (s : State) : (putCycle c s).rspCmdRx = s.rspCmdRx := rfl
@[simp] theorem putCycle_rxLen (c : Cycle) (s : State) : (putCycle c s).rxLen = s.rxLen := rfl
@[simp] theorem putCycle_nakCode (c : Cycle) (s : State) : (putCycle c s).nakCode = s.nakCode := rfl
@[simp] theorem putCycle_nakValid (c : Cycle) (s : State) : (putCycle c s).nakValid = s.nakValid := rfl
@[simp] theorem putCycle_attempts (c : Cycle) (s : State) : (putCycle c s).attempts = s.attempts := rfl
@[simp] theorem putCycle_dl (c : Cycle) (s : State) : (putCycle c s).dl = s.dl := rfl
@[simp] theorem putCycle_txIdx (c : Cycle) (s : State) : (putCycle c s).txIdx = s.txIdx := rfl
@[simp] theorem putCycle_rxBuf (c : Cycle) (s : State) : (putCycle c s).rxBuf = s.rxBuf := rfl
@[simp] theorem putCycle_invSeen (c : Cycle) (s : State) : (putCycle c s).invSeen = s.invSeen := rfl
@[simp] theorem putCycle_invRsn (c : Cycle) (s : State) : (putCycle c s).invRsn = s.invRsn := rfl
@[simp] theorem putCycle_failRsn (c : Cycle) (s : State) : (putCycle c s).failRsn = s.failRsn := rfl
@[simp] theorem putCycle_txp (c : Cycle) (s : State) : (putCycle c s).txp = s.txp := rfl
@[simp] theorem putCycle_rxp (c : Cycle) (s : State) : (putCycle c s).rxp = s.rxp := rfl
@[simp] theorem putCycle_epoch (c : Cycle) (s : State) : (putCycle c s).epoch = s.epoch := rfl
@[simp] theorem putCycle_out (c : Cycle) (s : State) : (putCycle c s).out = s.out := rfl
@[simp] theorem putCycle_inputs (c : Cycle) (s : State) : (putCycle c s).inputs = c :: s.inputs := rfl

/-! ### attemptStart -/

@[simp] theorem attemptStart_cfg (s : State) : (attemptStart s).cfg = s.cfg := rfl
@[simp] theorem attemptStart_phase (s : State) : (attemptStart s).phase = .tx := rfl
@[simp] theorem attemptStart_done (s : State) : (attemptStart s).done = s.done := rfl
@[simp] theorem attemptStart_err (s : State) : (attemptStart s).err = s.err := rfl
@[simp] theorem attemptStart_errCode (s : State) : (attemptStart s).errCode = s.errCode := rfl
@[simp] theorem attemptStart_outcome (s : State) : (attemptStart s).outcome = s.outcome := rfl
@[simp] theorem attemptStart_reason (s : State) : (attemptStart s).reason = s.reason := rfl
@[simp] theorem attemptStart_req (s : State) : (attemptStart s).req = s.req := rfl
@[simp] theorem attemptStart_txLen (s : State) : (attemptStart s).txLen = s.txLen := rfl
@[simp] theorem attemptStart_policy (s : State) : (attemptStart s).policy = s.policy := rfl
@[simp] theorem attemptStart_rspAddr (s : State) : (attemptStart s).rspAddr = s.rspAddr := rfl
@[simp] theorem attemptStart_rspCmdRx (s : State) : (attemptStart s).rspCmdRx = s.rspCmdRx := rfl
@[simp] theorem attemptStart_rxLen (s : State) : (attemptStart s).rxLen = s.rxLen := rfl
@[simp] theorem attemptStart_nakCode (s : State) : (attemptStart s).nakCode = s.nakCode := rfl
@[simp] theorem attemptStart_nakValid (s : State) : (attemptStart s).nakValid = s.nakValid := rfl
@[simp] theorem attemptStart_attempts (s : State) : (attemptStart s).attempts = s.attempts + 1#9 := rfl
@[simp] theorem attemptStart_dl (s : State) : (attemptStart s).dl = s.timeout := rfl
@[simp] theorem attemptStart_txIdx (s : State) : (attemptStart s).txIdx = 0#17 := rfl
@[simp] theorem attemptStart_rxBuf (s : State) : (attemptStart s).rxBuf = [] := rfl
@[simp] theorem attemptStart_invSeen (s : State) : (attemptStart s).invSeen = false := rfl
@[simp] theorem attemptStart_invRsn (s : State) : (attemptStart s).invRsn = .none := rfl
@[simp] theorem attemptStart_failRsn (s : State) : (attemptStart s).failRsn = .none := rfl
@[simp] theorem attemptStart_txp (s : State) : (attemptStart s).txp = s.txp := rfl
@[simp] theorem attemptStart_rxp (s : State) : (attemptStart s).rxp = s.rxp := rfl
@[simp] theorem attemptStart_epoch (s : State) : (attemptStart s).epoch = s.epoch := rfl
@[simp] theorem attemptStart_out (s : State) : (attemptStart s).out = s.out := rfl
@[simp] theorem attemptStart_inputs (s : State) : (attemptStart s).inputs = s.inputs := rfl

/-! ### execStart -/

@[simp] theorem execStart_cfg (s : State) : (execStart s).cfg = s.cfg := rfl
@[simp] theorem execStart_phase (s : State) : (execStart s).phase = .tx := rfl
@[simp] theorem execStart_done (s : State) : (execStart s).done = false := rfl
@[simp] theorem execStart_err (s : State) : (execStart s).err = s.err := rfl
@[simp] theorem execStart_errCode (s : State) : (execStart s).errCode = s.errCode := rfl
@[simp] theorem execStart_outcome (s : State) : (execStart s).outcome = .none := rfl
@[simp] theorem execStart_reason (s : State) : (execStart s).reason = .none := rfl
@[simp] theorem execStart_req (s : State) : (execStart s).req = s.req := rfl
@[simp] theorem execStart_txLen (s : State) : (execStart s).txLen = s.txLen := rfl
@[simp] theorem execStart_policy (s : State) : (execStart s).policy = s.policy := rfl
@[simp] theorem execStart_rspAddr (s : State) : (execStart s).rspAddr = 0#8 := rfl
@[simp] theorem execStart_rspCmdRx (s : State) : (execStart s).rspCmdRx = 0#8 := rfl
@[simp] theorem execStart_rxLen (s : State) : (execStart s).rxLen = 0#16 := rfl
@[simp] theorem execStart_nakCode (s : State) : (execStart s).nakCode = 0#8 := rfl
@[simp] theorem execStart_nakValid (s : State) : (execStart s).nakValid = false := rfl
@[simp] theorem execStart_attempts (s : State) : (execStart s).attempts = 1#9 := rfl
@[simp] theorem execStart_dl (s : State) : (execStart s).dl = s.timeout := rfl
@[simp] theorem execStart_txIdx (s : State) : (execStart s).txIdx = 0#17 := rfl
@[simp] theorem execStart_rxBuf (s : State) : (execStart s).rxBuf = [] := rfl
@[simp] theorem execStart_invSeen (s : State) : (execStart s).invSeen = false := rfl
@[simp] theorem execStart_invRsn (s : State) : (execStart s).invRsn = .none := rfl
@[simp] theorem execStart_failRsn (s : State) : (execStart s).failRsn = .none := rfl
@[simp] theorem execStart_txp (s : State) : (execStart s).txp = s.txp := rfl
@[simp] theorem execStart_rxp (s : State) : (execStart s).rxp = s.rxp := rfl
@[simp] theorem execStart_epoch (s : State) : (execStart s).epoch = s.epoch := rfl
@[simp] theorem execStart_out (s : State) : (execStart s).out = s.out := rfl
@[simp] theorem execStart_inputs (s : State) : (execStart s).inputs = s.inputs := rfl

/-! ### txAccept -/

@[simp] theorem txAccept_cfg (s : State) : (txAccept s).cfg = s.cfg := rfl
@[simp] theorem txAccept_phase (s : State) : (txAccept s).phase = if (s.txIdx + 1#17).toNat = s.cfg.frameLen s.txLen.toNat then .rx else s.phase := rfl
@[simp] theorem txAccept_done (s : State) : (txAccept s).done = s.done := rfl
@[simp] theorem txAccept_err (s : State) : (txAccept s).err = s.err := rfl
@[simp] theorem txAccept_errCode (s : State) : (txAccept s).errCode = s.errCode := rfl
@[simp] theorem txAccept_outcome (s : State) : (txAccept s).outcome = s.outcome := rfl
@[simp] theorem txAccept_reason (s : State) : (txAccept s).reason = s.reason := rfl
@[simp] theorem txAccept_req (s : State) : (txAccept s).req = s.req := rfl
@[simp] theorem txAccept_txLen (s : State) : (txAccept s).txLen = s.txLen := rfl
@[simp] theorem txAccept_policy (s : State) : (txAccept s).policy = s.policy := rfl
@[simp] theorem txAccept_rspAddr (s : State) : (txAccept s).rspAddr = s.rspAddr := rfl
@[simp] theorem txAccept_rspCmdRx (s : State) : (txAccept s).rspCmdRx = s.rspCmdRx := rfl
@[simp] theorem txAccept_rxLen (s : State) : (txAccept s).rxLen = s.rxLen := rfl
@[simp] theorem txAccept_nakCode (s : State) : (txAccept s).nakCode = s.nakCode := rfl
@[simp] theorem txAccept_nakValid (s : State) : (txAccept s).nakValid = s.nakValid := rfl
@[simp] theorem txAccept_attempts (s : State) : (txAccept s).attempts = s.attempts := rfl
@[simp] theorem txAccept_dl (s : State) : (txAccept s).dl = s.dl := rfl
@[simp] theorem txAccept_txIdx (s : State) : (txAccept s).txIdx = s.txIdx + 1#17 := rfl
@[simp] theorem txAccept_rxBuf (s : State) : (txAccept s).rxBuf = s.rxBuf := rfl
@[simp] theorem txAccept_invSeen (s : State) : (txAccept s).invSeen = s.invSeen := rfl
@[simp] theorem txAccept_invRsn (s : State) : (txAccept s).invRsn = s.invRsn := rfl
@[simp] theorem txAccept_failRsn (s : State) : (txAccept s).failRsn = s.failRsn := rfl
@[simp] theorem txAccept_txp (s : State) : (txAccept s).txp = s.txp := rfl
@[simp] theorem txAccept_rxp (s : State) : (txAccept s).rxp = s.rxp := rfl
@[simp] theorem txAccept_epoch (s : State) : (txAccept s).epoch = s.epoch := rfl
@[simp] theorem txAccept_out (s : State) : (txAccept s).out = s.out := rfl
@[simp] theorem txAccept_inputs (s : State) : (txAccept s).inputs = s.inputs := rfl

/-! ### finish -/

@[simp] theorem finish_cfg (o : TxnOutcome) (r : Reason) (s : State) : (finish o r s).cfg = s.cfg := rfl
@[simp] theorem finish_phase (o : TxnOutcome) (r : Reason) (s : State) : (finish o r s).phase = .idle := rfl
@[simp] theorem finish_done (o : TxnOutcome) (r : Reason) (s : State) : (finish o r s).done = true := rfl
@[simp] theorem finish_err (o : TxnOutcome) (r : Reason) (s : State) : (finish o r s).err = s.err := rfl
@[simp] theorem finish_errCode (o : TxnOutcome) (r : Reason) (s : State) : (finish o r s).errCode = s.errCode := rfl
@[simp] theorem finish_outcome (o : TxnOutcome) (r : Reason) (s : State) : (finish o r s).outcome = o := rfl
@[simp] theorem finish_reason (o : TxnOutcome) (r : Reason) (s : State) : (finish o r s).reason = r := rfl
@[simp] theorem finish_req (o : TxnOutcome) (r : Reason) (s : State) : (finish o r s).req = s.req := rfl
@[simp] theorem finish_txLen (o : TxnOutcome) (r : Reason) (s : State) : (finish o r s).txLen = s.txLen := rfl
@[simp] theorem finish_policy (o : TxnOutcome) (r : Reason) (s : State) : (finish o r s).policy = s.policy := rfl
@[simp] theorem finish_rspAddr (o : TxnOutcome) (r : Reason) (s : State) : (finish o r s).rspAddr = s.rspAddr := rfl
@[simp] theorem finish_rspCmdRx (o : TxnOutcome) (r : Reason) (s : State) : (finish o r s).rspCmdRx = s.rspCmdRx := rfl
@[simp] theorem finish_rxLen (o : TxnOutcome) (r : Reason) (s : State) : (finish o r s).rxLen = s.rxLen := rfl
@[simp] theorem finish_nakCode (o : TxnOutcome) (r : Reason) (s : State) : (finish o r s).nakCode = s.nakCode := rfl
@[simp] theorem finish_nakValid (o : TxnOutcome) (r : Reason) (s : State) : (finish o r s).nakValid = s.nakValid := rfl
@[simp] theorem finish_attempts (o : TxnOutcome) (r : Reason) (s : State) : (finish o r s).attempts = s.attempts := rfl
@[simp] theorem finish_dl (o : TxnOutcome) (r : Reason) (s : State) : (finish o r s).dl = 0#16 := rfl
@[simp] theorem finish_txIdx (o : TxnOutcome) (r : Reason) (s : State) : (finish o r s).txIdx = 0#17 := rfl
@[simp] theorem finish_rxBuf (o : TxnOutcome) (r : Reason) (s : State) : (finish o r s).rxBuf = [] := rfl
@[simp] theorem finish_invSeen (o : TxnOutcome) (r : Reason) (s : State) : (finish o r s).invSeen = false := rfl
@[simp] theorem finish_invRsn (o : TxnOutcome) (r : Reason) (s : State) : (finish o r s).invRsn = .none := rfl
@[simp] theorem finish_failRsn (o : TxnOutcome) (r : Reason) (s : State) : (finish o r s).failRsn = .none := rfl
@[simp] theorem finish_txp (o : TxnOutcome) (r : Reason) (s : State) : (finish o r s).txp = s.txp := rfl
@[simp] theorem finish_rxp (o : TxnOutcome) (r : Reason) (s : State) : (finish o r s).rxp = s.rxp := rfl
@[simp] theorem finish_epoch (o : TxnOutcome) (r : Reason) (s : State) : (finish o r s).epoch = s.epoch := rfl
@[simp] theorem finish_out (o : TxnOutcome) (r : Reason) (s : State) : (finish o r s).out = s.out := rfl
@[simp] theorem finish_inputs (o : TxnOutcome) (r : Reason) (s : State) : (finish o r s).inputs = s.inputs := rfl

/-! ### record -/

@[simp] theorem record_cfg (f : Frame) (s : State) : (record f s).cfg = s.cfg := rfl
@[simp] theorem record_phase (f : Frame) (s : State) : (record f s).phase = s.phase := rfl
@[simp] theorem record_done (f : Frame) (s : State) : (record f s).done = s.done := rfl
@[simp] theorem record_err (f : Frame) (s : State) : (record f s).err = s.err := rfl
@[simp] theorem record_errCode (f : Frame) (s : State) : (record f s).errCode = s.errCode := rfl
@[simp] theorem record_outcome (f : Frame) (s : State) : (record f s).outcome = s.outcome := rfl
@[simp] theorem record_reason (f : Frame) (s : State) : (record f s).reason = s.reason := rfl
@[simp] theorem record_req (f : Frame) (s : State) : (record f s).req = s.req := rfl
@[simp] theorem record_txLen (f : Frame) (s : State) : (record f s).txLen = s.txLen := rfl
@[simp] theorem record_policy (f : Frame) (s : State) : (record f s).policy = s.policy := rfl
@[simp] theorem record_rspAddr (f : Frame) (s : State) : (record f s).rspAddr = f.addr := rfl
@[simp] theorem record_rspCmdRx (f : Frame) (s : State) : (record f s).rspCmdRx = f.cmd := rfl
@[simp] theorem record_rxLen (f : Frame) (s : State) : (record f s).rxLen = BitVec.ofNat 16 f.payload.length := rfl
@[simp] theorem record_nakCode (f : Frame) (s : State) : (record f s).nakCode = s.nakCode := rfl
@[simp] theorem record_nakValid (f : Frame) (s : State) : (record f s).nakValid = s.nakValid := rfl
@[simp] theorem record_attempts (f : Frame) (s : State) : (record f s).attempts = s.attempts := rfl
@[simp] theorem record_dl (f : Frame) (s : State) : (record f s).dl = s.dl := rfl
@[simp] theorem record_txIdx (f : Frame) (s : State) : (record f s).txIdx = s.txIdx := rfl
@[simp] theorem record_rxBuf (f : Frame) (s : State) : (record f s).rxBuf = s.rxBuf := rfl
@[simp] theorem record_invSeen (f : Frame) (s : State) : (record f s).invSeen = s.invSeen := rfl
@[simp] theorem record_invRsn (f : Frame) (s : State) : (record f s).invRsn = s.invRsn := rfl
@[simp] theorem record_failRsn (f : Frame) (s : State) : (record f s).failRsn = s.failRsn := rfl
@[simp] theorem record_txp (f : Frame) (s : State) : (record f s).txp = s.txp := rfl
@[simp] theorem record_rxp (f : Frame) (s : State) : (record f s).rxp = Memory.writeBytes s.rxp 0 f.payload := rfl
@[simp] theorem record_epoch (f : Frame) (s : State) : (record f s).epoch = s.epoch := rfl
@[simp] theorem record_out (f : Frame) (s : State) : (record f s).out = s.out := rfl
@[simp] theorem record_inputs (f : Frame) (s : State) : (record f s).inputs = s.inputs := rfl

/-! ### recordNak -/

@[simp] theorem recordNak_cfg (f : Frame) (s : State) : (recordNak f s).cfg = s.cfg := rfl
@[simp] theorem recordNak_phase (f : Frame) (s : State) : (recordNak f s).phase = s.phase := rfl
@[simp] theorem recordNak_done (f : Frame) (s : State) : (recordNak f s).done = s.done := rfl
@[simp] theorem recordNak_err (f : Frame) (s : State) : (recordNak f s).err = s.err := rfl
@[simp] theorem recordNak_errCode (f : Frame) (s : State) : (recordNak f s).errCode = s.errCode := rfl
@[simp] theorem recordNak_outcome (f : Frame) (s : State) : (recordNak f s).outcome = s.outcome := rfl
@[simp] theorem recordNak_reason (f : Frame) (s : State) : (recordNak f s).reason = s.reason := rfl
@[simp] theorem recordNak_req (f : Frame) (s : State) : (recordNak f s).req = s.req := rfl
@[simp] theorem recordNak_txLen (f : Frame) (s : State) : (recordNak f s).txLen = s.txLen := rfl
@[simp] theorem recordNak_policy (f : Frame) (s : State) : (recordNak f s).policy = s.policy := rfl
@[simp] theorem recordNak_rspAddr (f : Frame) (s : State) : (recordNak f s).rspAddr = s.rspAddr := rfl
@[simp] theorem recordNak_rspCmdRx (f : Frame) (s : State) : (recordNak f s).rspCmdRx = s.rspCmdRx := rfl
@[simp] theorem recordNak_rxLen (f : Frame) (s : State) : (recordNak f s).rxLen = s.rxLen := rfl
@[simp] theorem recordNak_nakCode (f : Frame) (s : State) : (recordNak f s).nakCode = f.payload.headD 0#8 := rfl
@[simp] theorem recordNak_nakValid (f : Frame) (s : State) : (recordNak f s).nakValid = !f.payload.isEmpty := rfl
@[simp] theorem recordNak_attempts (f : Frame) (s : State) : (recordNak f s).attempts = s.attempts := rfl
@[simp] theorem recordNak_dl (f : Frame) (s : State) : (recordNak f s).dl = s.dl := rfl
@[simp] theorem recordNak_txIdx (f : Frame) (s : State) : (recordNak f s).txIdx = s.txIdx := rfl
@[simp] theorem recordNak_rxBuf (f : Frame) (s : State) : (recordNak f s).rxBuf = s.rxBuf := rfl
@[simp] theorem recordNak_invSeen (f : Frame) (s : State) : (recordNak f s).invSeen = s.invSeen := rfl
@[simp] theorem recordNak_invRsn (f : Frame) (s : State) : (recordNak f s).invRsn = s.invRsn := rfl
@[simp] theorem recordNak_failRsn (f : Frame) (s : State) : (recordNak f s).failRsn = s.failRsn := rfl
@[simp] theorem recordNak_txp (f : Frame) (s : State) : (recordNak f s).txp = s.txp := rfl
@[simp] theorem recordNak_rxp (f : Frame) (s : State) : (recordNak f s).rxp = s.rxp := rfl
@[simp] theorem recordNak_epoch (f : Frame) (s : State) : (recordNak f s).epoch = s.epoch := rfl
@[simp] theorem recordNak_out (f : Frame) (s : State) : (recordNak f s).out = s.out := rfl
@[simp] theorem recordNak_inputs (f : Frame) (s : State) : (recordNak f s).inputs = s.inputs := rfl

/-! ### chFail -/

@[simp] theorem chFail_cfg (r : Reason) (s : State) : (chFail r s).cfg = s.cfg := rfl
@[simp] theorem chFail_phase (r : Reason) (s : State) : (chFail r s).phase = .holdoff := rfl
@[simp] theorem chFail_done (r : Reason) (s : State) : (chFail r s).done = s.done := rfl
@[simp] theorem chFail_err (r : Reason) (s : State) : (chFail r s).err = s.err := rfl
@[simp] theorem chFail_errCode (r : Reason) (s : State) : (chFail r s).errCode = s.errCode := rfl
@[simp] theorem chFail_outcome (r : Reason) (s : State) : (chFail r s).outcome = s.outcome := rfl
@[simp] theorem chFail_reason (r : Reason) (s : State) : (chFail r s).reason = s.reason := rfl
@[simp] theorem chFail_req (r : Reason) (s : State) : (chFail r s).req = s.req := rfl
@[simp] theorem chFail_txLen (r : Reason) (s : State) : (chFail r s).txLen = s.txLen := rfl
@[simp] theorem chFail_policy (r : Reason) (s : State) : (chFail r s).policy = s.policy := rfl
@[simp] theorem chFail_rspAddr (r : Reason) (s : State) : (chFail r s).rspAddr = s.rspAddr := rfl
@[simp] theorem chFail_rspCmdRx (r : Reason) (s : State) : (chFail r s).rspCmdRx = s.rspCmdRx := rfl
@[simp] theorem chFail_rxLen (r : Reason) (s : State) : (chFail r s).rxLen = s.rxLen := rfl
@[simp] theorem chFail_nakCode (r : Reason) (s : State) : (chFail r s).nakCode = s.nakCode := rfl
@[simp] theorem chFail_nakValid (r : Reason) (s : State) : (chFail r s).nakValid = s.nakValid := rfl
@[simp] theorem chFail_attempts (r : Reason) (s : State) : (chFail r s).attempts = s.attempts := rfl
@[simp] theorem chFail_dl (r : Reason) (s : State) : (chFail r s).dl = s.dl := rfl
@[simp] theorem chFail_txIdx (r : Reason) (s : State) : (chFail r s).txIdx = s.txIdx := rfl
@[simp] theorem chFail_rxBuf (r : Reason) (s : State) : (chFail r s).rxBuf = [] := rfl
@[simp] theorem chFail_invSeen (r : Reason) (s : State) : (chFail r s).invSeen = s.invSeen := rfl
@[simp] theorem chFail_invRsn (r : Reason) (s : State) : (chFail r s).invRsn = s.invRsn := rfl
@[simp] theorem chFail_failRsn (r : Reason) (s : State) : (chFail r s).failRsn = r := rfl
@[simp] theorem chFail_txp (r : Reason) (s : State) : (chFail r s).txp = s.txp := rfl
@[simp] theorem chFail_rxp (r : Reason) (s : State) : (chFail r s).rxp = s.rxp := rfl
@[simp] theorem chFail_epoch (r : Reason) (s : State) : (chFail r s).epoch = s.epoch := rfl
@[simp] theorem chFail_out (r : Reason) (s : State) : (chFail r s).out = s.out := rfl
@[simp] theorem chFail_inputs (r : Reason) (s : State) : (chFail r s).inputs = s.inputs := rfl

/-! ### countDown -/

@[simp] theorem countDown_cfg (s : State) : (countDown s).cfg = s.cfg := rfl
@[simp] theorem countDown_phase (s : State) : (countDown s).phase = s.phase := rfl
@[simp] theorem countDown_done (s : State) : (countDown s).done = s.done := rfl
@[simp] theorem countDown_err (s : State) : (countDown s).err = s.err := rfl
@[simp] theorem countDown_errCode (s : State) : (countDown s).errCode = s.errCode := rfl
@[simp] theorem countDown_outcome (s : State) : (countDown s).outcome = s.outcome := rfl
@[simp] theorem countDown_reason (s : State) : (countDown s).reason = s.reason := rfl
@[simp] theorem countDown_req (s : State) : (countDown s).req = s.req := rfl
@[simp] theorem countDown_txLen (s : State) : (countDown s).txLen = s.txLen := rfl
@[simp] theorem countDown_policy (s : State) : (countDown s).policy = s.policy := rfl
@[simp] theorem countDown_rspAddr (s : State) : (countDown s).rspAddr = s.rspAddr := rfl
@[simp] theorem countDown_rspCmdRx (s : State) : (countDown s).rspCmdRx = s.rspCmdRx := rfl
@[simp] theorem countDown_rxLen (s : State) : (countDown s).rxLen = s.rxLen := rfl
@[simp] theorem countDown_nakCode (s : State) : (countDown s).nakCode = s.nakCode := rfl
@[simp] theorem countDown_nakValid (s : State) : (countDown s).nakValid = s.nakValid := rfl
@[simp] theorem countDown_attempts (s : State) : (countDown s).attempts = s.attempts := rfl
@[simp] theorem countDown_dl (s : State) : (countDown s).dl = s.dl - 1#16 := rfl
@[simp] theorem countDown_txIdx (s : State) : (countDown s).txIdx = s.txIdx := rfl
@[simp] theorem countDown_rxBuf (s : State) : (countDown s).rxBuf = s.rxBuf := rfl
@[simp] theorem countDown_invSeen (s : State) : (countDown s).invSeen = s.invSeen := rfl
@[simp] theorem countDown_invRsn (s : State) : (countDown s).invRsn = s.invRsn := rfl
@[simp] theorem countDown_failRsn (s : State) : (countDown s).failRsn = s.failRsn := rfl
@[simp] theorem countDown_txp (s : State) : (countDown s).txp = s.txp := rfl
@[simp] theorem countDown_rxp (s : State) : (countDown s).rxp = s.rxp := rfl
@[simp] theorem countDown_epoch (s : State) : (countDown s).epoch = s.epoch := rfl
@[simp] theorem countDown_out (s : State) : (countDown s).out = s.out := rfl
@[simp] theorem countDown_inputs (s : State) : (countDown s).inputs = s.inputs := rfl

/-! ### dropRx -/

@[simp] theorem dropRx_cfg (k : Nat) (s : State) : (dropRx k s).cfg = s.cfg := rfl
@[simp] theorem dropRx_phase (k : Nat) (s : State) : (dropRx k s).phase = s.phase := rfl
@[simp] theorem dropRx_done (k : Nat) (s : State) : (dropRx k s).done = s.done := rfl
@[simp] theorem dropRx_err (k : Nat) (s : State) : (dropRx k s).err = s.err := rfl
@[simp] theorem dropRx_errCode (k : Nat) (s : State) : (dropRx k s).errCode = s.errCode := rfl
@[simp] theorem dropRx_outcome (k : Nat) (s : State) : (dropRx k s).outcome = s.outcome := rfl
@[simp] theorem dropRx_reason (k : Nat) (s : State) : (dropRx k s).reason = s.reason := rfl
@[simp] theorem dropRx_req (k : Nat) (s : State) : (dropRx k s).req = s.req := rfl
@[simp] theorem dropRx_txLen (k : Nat) (s : State) : (dropRx k s).txLen = s.txLen := rfl
@[simp] theorem dropRx_policy (k : Nat) (s : State) : (dropRx k s).policy = s.policy := rfl
@[simp] theorem dropRx_rspAddr (k : Nat) (s : State) : (dropRx k s).rspAddr = s.rspAddr := rfl
@[simp] theorem dropRx_rspCmdRx (k : Nat) (s : State) : (dropRx k s).rspCmdRx = s.rspCmdRx := rfl
@[simp] theorem dropRx_rxLen (k : Nat) (s : State) : (dropRx k s).rxLen = s.rxLen := rfl
@[simp] theorem dropRx_nakCode (k : Nat) (s : State) : (dropRx k s).nakCode = s.nakCode := rfl
@[simp] theorem dropRx_nakValid (k : Nat) (s : State) : (dropRx k s).nakValid = s.nakValid := rfl
@[simp] theorem dropRx_attempts (k : Nat) (s : State) : (dropRx k s).attempts = s.attempts := rfl
@[simp] theorem dropRx_dl (k : Nat) (s : State) : (dropRx k s).dl = s.dl := rfl
@[simp] theorem dropRx_txIdx (k : Nat) (s : State) : (dropRx k s).txIdx = s.txIdx := rfl
@[simp] theorem dropRx_rxBuf (k : Nat) (s : State) : (dropRx k s).rxBuf = s.rxBuf.drop k := rfl
@[simp] theorem dropRx_invSeen (k : Nat) (s : State) : (dropRx k s).invSeen = s.invSeen := rfl
@[simp] theorem dropRx_invRsn (k : Nat) (s : State) : (dropRx k s).invRsn = s.invRsn := rfl
@[simp] theorem dropRx_failRsn (k : Nat) (s : State) : (dropRx k s).failRsn = s.failRsn := rfl
@[simp] theorem dropRx_txp (k : Nat) (s : State) : (dropRx k s).txp = s.txp := rfl
@[simp] theorem dropRx_rxp (k : Nat) (s : State) : (dropRx k s).rxp = s.rxp := rfl
@[simp] theorem dropRx_epoch (k : Nat) (s : State) : (dropRx k s).epoch = s.epoch := rfl
@[simp] theorem dropRx_out (k : Nat) (s : State) : (dropRx k s).out = s.out := rfl
@[simp] theorem dropRx_inputs (k : Nat) (s : State) : (dropRx k s).inputs = s.inputs := rfl

/-! ### markInvalid -/

@[simp] theorem markInvalid_cfg (r : Reason) (s : State) : (markInvalid r s).cfg = s.cfg := rfl
@[simp] theorem markInvalid_phase (r : Reason) (s : State) : (markInvalid r s).phase = s.phase := rfl
@[simp] theorem markInvalid_done (r : Reason) (s : State) : (markInvalid r s).done = s.done := rfl
@[simp] theorem markInvalid_err (r : Reason) (s : State) : (markInvalid r s).err = s.err := rfl
@[simp] theorem markInvalid_errCode (r : Reason) (s : State) : (markInvalid r s).errCode = s.errCode := rfl
@[simp] theorem markInvalid_outcome (r : Reason) (s : State) : (markInvalid r s).outcome = s.outcome := rfl
@[simp] theorem markInvalid_reason (r : Reason) (s : State) : (markInvalid r s).reason = s.reason := rfl
@[simp] theorem markInvalid_req (r : Reason) (s : State) : (markInvalid r s).req = s.req := rfl
@[simp] theorem markInvalid_txLen (r : Reason) (s : State) : (markInvalid r s).txLen = s.txLen := rfl
@[simp] theorem markInvalid_policy (r : Reason) (s : State) : (markInvalid r s).policy = s.policy := rfl
@[simp] theorem markInvalid_rspAddr (r : Reason) (s : State) : (markInvalid r s).rspAddr = s.rspAddr := rfl
@[simp] theorem markInvalid_rspCmdRx (r : Reason) (s : State) : (markInvalid r s).rspCmdRx = s.rspCmdRx := rfl
@[simp] theorem markInvalid_rxLen (r : Reason) (s : State) : (markInvalid r s).rxLen = s.rxLen := rfl
@[simp] theorem markInvalid_nakCode (r : Reason) (s : State) : (markInvalid r s).nakCode = s.nakCode := rfl
@[simp] theorem markInvalid_nakValid (r : Reason) (s : State) : (markInvalid r s).nakValid = s.nakValid := rfl
@[simp] theorem markInvalid_attempts (r : Reason) (s : State) : (markInvalid r s).attempts = s.attempts := rfl
@[simp] theorem markInvalid_dl (r : Reason) (s : State) : (markInvalid r s).dl = s.dl := rfl
@[simp] theorem markInvalid_txIdx (r : Reason) (s : State) : (markInvalid r s).txIdx = s.txIdx := rfl
@[simp] theorem markInvalid_rxBuf (r : Reason) (s : State) : (markInvalid r s).rxBuf = s.rxBuf := rfl
@[simp] theorem markInvalid_invSeen (r : Reason) (s : State) : (markInvalid r s).invSeen = true := rfl
@[simp] theorem markInvalid_invRsn (r : Reason) (s : State) : (markInvalid r s).invRsn = r := rfl
@[simp] theorem markInvalid_failRsn (r : Reason) (s : State) : (markInvalid r s).failRsn = s.failRsn := rfl
@[simp] theorem markInvalid_txp (r : Reason) (s : State) : (markInvalid r s).txp = s.txp := rfl
@[simp] theorem markInvalid_rxp (r : Reason) (s : State) : (markInvalid r s).rxp = s.rxp := rfl
@[simp] theorem markInvalid_epoch (r : Reason) (s : State) : (markInvalid r s).epoch = s.epoch := rfl
@[simp] theorem markInvalid_out (r : Reason) (s : State) : (markInvalid r s).out = s.out := rfl
@[simp] theorem markInvalid_inputs (r : Reason) (s : State) : (markInvalid r s).inputs = s.inputs := rfl

/-! ### appendRx -/

@[simp] theorem appendRx_cfg (b : Byte) (s : State) : (appendRx b s).cfg = s.cfg := rfl
@[simp] theorem appendRx_phase (b : Byte) (s : State) : (appendRx b s).phase = s.phase := rfl
@[simp] theorem appendRx_done (b : Byte) (s : State) : (appendRx b s).done = s.done := rfl
@[simp] theorem appendRx_err (b : Byte) (s : State) : (appendRx b s).err = s.err := rfl
@[simp] theorem appendRx_errCode (b : Byte) (s : State) : (appendRx b s).errCode = s.errCode := rfl
@[simp] theorem appendRx_outcome (b : Byte) (s : State) : (appendRx b s).outcome = s.outcome := rfl
@[simp] theorem appendRx_reason (b : Byte) (s : State) : (appendRx b s).reason = s.reason := rfl
@[simp] theorem appendRx_req (b : Byte) (s : State) : (appendRx b s).req = s.req := rfl
@[simp] theorem appendRx_txLen (b : Byte) (s : State) : (appendRx b s).txLen = s.txLen := rfl
@[simp] theorem appendRx_policy (b : Byte) (s : State) : (appendRx b s).policy = s.policy := rfl
@[simp] theorem appendRx_rspAddr (b : Byte) (s : State) : (appendRx b s).rspAddr = s.rspAddr := rfl
@[simp] theorem appendRx_rspCmdRx (b : Byte) (s : State) : (appendRx b s).rspCmdRx = s.rspCmdRx := rfl
@[simp] theorem appendRx_rxLen (b : Byte) (s : State) : (appendRx b s).rxLen = s.rxLen := rfl
@[simp] theorem appendRx_nakCode (b : Byte) (s : State) : (appendRx b s).nakCode = s.nakCode := rfl
@[simp] theorem appendRx_nakValid (b : Byte) (s : State) : (appendRx b s).nakValid = s.nakValid := rfl
@[simp] theorem appendRx_attempts (b : Byte) (s : State) : (appendRx b s).attempts = s.attempts := rfl
@[simp] theorem appendRx_dl (b : Byte) (s : State) : (appendRx b s).dl = s.dl := rfl
@[simp] theorem appendRx_txIdx (b : Byte) (s : State) : (appendRx b s).txIdx = s.txIdx := rfl
@[simp] theorem appendRx_rxBuf (b : Byte) (s : State) : (appendRx b s).rxBuf = s.rxBuf ++ [b] := rfl
@[simp] theorem appendRx_invSeen (b : Byte) (s : State) : (appendRx b s).invSeen = s.invSeen := rfl
@[simp] theorem appendRx_invRsn (b : Byte) (s : State) : (appendRx b s).invRsn = s.invRsn := rfl
@[simp] theorem appendRx_failRsn (b : Byte) (s : State) : (appendRx b s).failRsn = s.failRsn := rfl
@[simp] theorem appendRx_txp (b : Byte) (s : State) : (appendRx b s).txp = s.txp := rfl
@[simp] theorem appendRx_rxp (b : Byte) (s : State) : (appendRx b s).rxp = s.rxp := rfl
@[simp] theorem appendRx_epoch (b : Byte) (s : State) : (appendRx b s).epoch = s.epoch := rfl
@[simp] theorem appendRx_out (b : Byte) (s : State) : (appendRx b s).out = s.out := rfl
@[simp] theorem appendRx_inputs (b : Byte) (s : State) : (appendRx b s).inputs = s.inputs := rfl

/-! ### applyReset -/

@[simp] theorem applyReset_cfg (s : State) : (applyReset s).cfg = s.cfg := rfl
@[simp] theorem applyReset_phase (s : State) : (applyReset s).phase = .idle := rfl
@[simp] theorem applyReset_done (s : State) : (applyReset s).done = false := rfl
@[simp] theorem applyReset_err (s : State) : (applyReset s).err = false := rfl
@[simp] theorem applyReset_errCode (s : State) : (applyReset s).errCode = .none := rfl
@[simp] theorem applyReset_outcome (s : State) : (applyReset s).outcome = .none := rfl
@[simp] theorem applyReset_reason (s : State) : (applyReset s).reason = .none := rfl
@[simp] theorem applyReset_req (s : State) : (applyReset s).req = 0#32 := rfl
@[simp] theorem applyReset_txLen (s : State) : (applyReset s).txLen = 0#16 := rfl
@[simp] theorem applyReset_policy (s : State) : (applyReset s).policy = 0x3000000#26 := rfl
@[simp] theorem applyReset_rspAddr (s : State) : (applyReset s).rspAddr = 0#8 := rfl
@[simp] theorem applyReset_rspCmdRx (s : State) : (applyReset s).rspCmdRx = 0#8 := rfl
@[simp] theorem applyReset_rxLen (s : State) : (applyReset s).rxLen = 0#16 := rfl
@[simp] theorem applyReset_nakCode (s : State) : (applyReset s).nakCode = 0#8 := rfl
@[simp] theorem applyReset_nakValid (s : State) : (applyReset s).nakValid = false := rfl
@[simp] theorem applyReset_attempts (s : State) : (applyReset s).attempts = 0#9 := rfl
@[simp] theorem applyReset_dl (s : State) : (applyReset s).dl = 0#16 := rfl
@[simp] theorem applyReset_txIdx (s : State) : (applyReset s).txIdx = 0#17 := rfl
@[simp] theorem applyReset_rxBuf (s : State) : (applyReset s).rxBuf = [] := rfl
@[simp] theorem applyReset_invSeen (s : State) : (applyReset s).invSeen = false := rfl
@[simp] theorem applyReset_invRsn (s : State) : (applyReset s).invRsn = .none := rfl
@[simp] theorem applyReset_failRsn (s : State) : (applyReset s).failRsn = .none := rfl
@[simp] theorem applyReset_txp (s : State) : (applyReset s).txp = [] := rfl
@[simp] theorem applyReset_rxp (s : State) : (applyReset s).rxp = [] := rfl
@[simp] theorem applyReset_epoch (s : State) : (applyReset s).epoch = s.epoch + 1 := rfl
@[simp] theorem applyReset_out (s : State) : (applyReset s).out = Outputs.zero := rfl
@[simp] theorem applyReset_inputs (s : State) : (applyReset s).inputs = s.inputs := rfl

/-! ### State.reset -/

@[simp] theorem reset_cfg : State.reset.cfg = Config.ref := rfl
@[simp] theorem reset_phase : State.reset.phase = .idle := rfl
@[simp] theorem reset_done : State.reset.done = false := rfl
@[simp] theorem reset_err : State.reset.err = false := rfl
@[simp] theorem reset_errCode : State.reset.errCode = .none := rfl
@[simp] theorem reset_outcome : State.reset.outcome = .none := rfl
@[simp] theorem reset_reason : State.reset.reason = .none := rfl
@[simp] theorem reset_req : State.reset.req = 0#32 := rfl
@[simp] theorem reset_txLen : State.reset.txLen = 0#16 := rfl
@[simp] theorem reset_policy : State.reset.policy = 0x3000000#26 := rfl
@[simp] theorem reset_rspAddr : State.reset.rspAddr = 0#8 := rfl
@[simp] theorem reset_rspCmdRx : State.reset.rspCmdRx = 0#8 := rfl
@[simp] theorem reset_rxLen : State.reset.rxLen = 0#16 := rfl
@[simp] theorem reset_nakCode : State.reset.nakCode = 0#8 := rfl
@[simp] theorem reset_nakValid : State.reset.nakValid = false := rfl
@[simp] theorem reset_attempts : State.reset.attempts = 0#9 := rfl
@[simp] theorem reset_dl : State.reset.dl = 0#16 := rfl
@[simp] theorem reset_txIdx : State.reset.txIdx = 0#17 := rfl
@[simp] theorem reset_rxBuf : State.reset.rxBuf = [] := rfl
@[simp] theorem reset_invSeen : State.reset.invSeen = false := rfl
@[simp] theorem reset_invRsn : State.reset.invRsn = .none := rfl
@[simp] theorem reset_failRsn : State.reset.failRsn = .none := rfl
@[simp] theorem reset_txp : State.reset.txp = [] := rfl
@[simp] theorem reset_rxp : State.reset.rxp = [] := rfl
@[simp] theorem reset_epoch : State.reset.epoch = 0 := rfl
@[simp] theorem reset_out : State.reset.out = Outputs.zero := rfl
@[simp] theorem reset_inputs : State.reset.inputs = [] := rfl

/-! ### The accessors that an update leaves alone -/

/-- BUSY says that the phase is not IDLE (10_state.md R22). -/
@[simp] theorem busy_eq_true (s : State) : s.busy = true ↔ s.phase ≠ .idle := by simp [State.busy]

/-- BUSY is clear exactly in IDLE (10_state.md R22). -/
@[simp] theorem busy_eq_false (s : State) : s.busy = false ↔ s.phase = .idle := by simp [State.busy]

@[simp] theorem answerRead_reqAddr (v : Word) (s : State) : (answerRead v s).reqAddr = s.reqAddr := rfl
@[simp] theorem answerRead_reqCmd (v : Word) (s : State) : (answerRead v s).reqCmd = s.reqCmd := rfl
@[simp] theorem answerRead_reqRspCmd (v : Word) (s : State) : (answerRead v s).reqRspCmd = s.reqRspCmd := rfl
@[simp] theorem answerRead_reqNakCmd (v : Word) (s : State) : (answerRead v s).reqNakCmd = s.reqNakCmd := rfl
@[simp] theorem answerRead_timeout (v : Word) (s : State) : (answerRead v s).timeout = s.timeout := rfl
@[simp] theorem answerRead_maxRetries (v : Word) (s : State) : (answerRead v s).maxRetries = s.maxRetries := rfl
@[simp] theorem answerRead_retryOnTimeout (v : Word) (s : State) : (answerRead v s).retryOnTimeout = s.retryOnTimeout := rfl
@[simp] theorem answerRead_retryOnChannel (v : Word) (s : State) : (answerRead v s).retryOnChannel = s.retryOnChannel := rfl
@[simp] theorem answerWrite_reqAddr (s : State) : (answerWrite s).reqAddr = s.reqAddr := rfl
@[simp] theorem answerWrite_reqCmd (s : State) : (answerWrite s).reqCmd = s.reqCmd := rfl
@[simp] theorem answerWrite_reqRspCmd (s : State) : (answerWrite s).reqRspCmd = s.reqRspCmd := rfl
@[simp] theorem answerWrite_reqNakCmd (s : State) : (answerWrite s).reqNakCmd = s.reqNakCmd := rfl
@[simp] theorem answerWrite_timeout (s : State) : (answerWrite s).timeout = s.timeout := rfl
@[simp] theorem answerWrite_maxRetries (s : State) : (answerWrite s).maxRetries = s.maxRetries := rfl
@[simp] theorem answerWrite_retryOnTimeout (s : State) : (answerWrite s).retryOnTimeout = s.retryOnTimeout := rfl
@[simp] theorem answerWrite_retryOnChannel (s : State) : (answerWrite s).retryOnChannel = s.retryOnChannel := rfl
@[simp] theorem busErrorAnswer_reqAddr (w : Bool) (s : State) : (busErrorAnswer w s).reqAddr = s.reqAddr := rfl
@[simp] theorem busErrorAnswer_reqCmd (w : Bool) (s : State) : (busErrorAnswer w s).reqCmd = s.reqCmd := rfl
@[simp] theorem busErrorAnswer_reqRspCmd (w : Bool) (s : State) : (busErrorAnswer w s).reqRspCmd = s.reqRspCmd := rfl
@[simp] theorem busErrorAnswer_reqNakCmd (w : Bool) (s : State) : (busErrorAnswer w s).reqNakCmd = s.reqNakCmd := rfl
@[simp] theorem busErrorAnswer_timeout (w : Bool) (s : State) : (busErrorAnswer w s).timeout = s.timeout := rfl
@[simp] theorem busErrorAnswer_maxRetries (w : Bool) (s : State) : (busErrorAnswer w s).maxRetries = s.maxRetries := rfl
@[simp] theorem busErrorAnswer_retryOnTimeout (w : Bool) (s : State) : (busErrorAnswer w s).retryOnTimeout = s.retryOnTimeout := rfl
@[simp] theorem busErrorAnswer_retryOnChannel (w : Bool) (s : State) : (busErrorAnswer w s).retryOnChannel = s.retryOnChannel := rfl
@[simp] theorem setErr_reqAddr (c : ErrCode) (s : State) : (setErr c s).reqAddr = s.reqAddr := rfl
@[simp] theorem setErr_reqCmd (c : ErrCode) (s : State) : (setErr c s).reqCmd = s.reqCmd := rfl
@[simp] theorem setErr_reqRspCmd (c : ErrCode) (s : State) : (setErr c s).reqRspCmd = s.reqRspCmd := rfl
@[simp] theorem setErr_reqNakCmd (c : ErrCode) (s : State) : (setErr c s).reqNakCmd = s.reqNakCmd := rfl
@[simp] theorem setErr_timeout (c : ErrCode) (s : State) : (setErr c s).timeout = s.timeout := rfl
@[simp] theorem setErr_maxRetries (c : ErrCode) (s : State) : (setErr c s).maxRetries = s.maxRetries := rfl
@[simp] theorem setErr_retryOnTimeout (c : ErrCode) (s : State) : (setErr c s).retryOnTimeout = s.retryOnTimeout := rfl
@[simp] theorem setErr_retryOnChannel (c : ErrCode) (s : State) : (setErr c s).retryOnChannel = s.retryOnChannel := rfl
@[simp] theorem acknowledge_reqAddr (s : State) : (acknowledge s).reqAddr = s.reqAddr := rfl
@[simp] theorem acknowledge_reqCmd (s : State) : (acknowledge s).reqCmd = s.reqCmd := rfl
@[simp] theorem acknowledge_reqRspCmd (s : State) : (acknowledge s).reqRspCmd = s.reqRspCmd := rfl
@[simp] theorem acknowledge_reqNakCmd (s : State) : (acknowledge s).reqNakCmd = s.reqNakCmd := rfl
@[simp] theorem acknowledge_timeout (s : State) : (acknowledge s).timeout = s.timeout := rfl
@[simp] theorem acknowledge_maxRetries (s : State) : (acknowledge s).maxRetries = s.maxRetries := rfl
@[simp] theorem acknowledge_retryOnTimeout (s : State) : (acknowledge s).retryOnTimeout = s.retryOnTimeout := rfl
@[simp] theorem acknowledge_retryOnChannel (s : State) : (acknowledge s).retryOnChannel = s.retryOnChannel := rfl
@[simp] theorem beginCycle_reqAddr (s : State) : (beginCycle s).reqAddr = s.reqAddr := rfl
@[simp] theorem beginCycle_reqCmd (s : State) : (beginCycle s).reqCmd = s.reqCmd := rfl
@[simp] theorem beginCycle_reqRspCmd (s : State) : (beginCycle s).reqRspCmd = s.reqRspCmd := rfl
@[simp] theorem beginCycle_reqNakCmd (s : State) : (beginCycle s).reqNakCmd = s.reqNakCmd := rfl
@[simp] theorem beginCycle_timeout (s : State) : (beginCycle s).timeout = s.timeout := rfl
@[simp] theorem beginCycle_maxRetries (s : State) : (beginCycle s).maxRetries = s.maxRetries := rfl
@[simp] theorem beginCycle_retryOnTimeout (s : State) : (beginCycle s).retryOnTimeout = s.retryOnTimeout := rfl
@[simp] theorem beginCycle_retryOnChannel (s : State) : (beginCycle s).retryOnChannel = s.retryOnChannel := rfl
@[simp] theorem takeCycle_reqAddr (s : State) : (takeCycle s).reqAddr = s.reqAddr := rfl
@[simp] theorem takeCycle_reqCmd (s : State) : (takeCycle s).reqCmd = s.reqCmd := rfl
@[simp] theorem takeCycle_reqRspCmd (s : State) : (takeCycle s).reqRspCmd = s.reqRspCmd := rfl
@[simp] theorem takeCycle_reqNakCmd (s : State) : (takeCycle s).reqNakCmd = s.reqNakCmd := rfl
@[simp] theorem takeCycle_timeout (s : State) : (takeCycle s).timeout = s.timeout := rfl
@[simp] theorem takeCycle_maxRetries (s : State) : (takeCycle s).maxRetries = s.maxRetries := rfl
@[simp] theorem takeCycle_retryOnTimeout (s : State) : (takeCycle s).retryOnTimeout = s.retryOnTimeout := rfl
@[simp] theorem takeCycle_retryOnChannel (s : State) : (takeCycle s).retryOnChannel = s.retryOnChannel := rfl
@[simp] theorem putCycle_reqAddr (c : Cycle) (s : State) : (putCycle c s).reqAddr = s.reqAddr := rfl
@[simp] theorem putCycle_reqCmd (c : Cycle) (s : State) : (putCycle c s).reqCmd = s.reqCmd := rfl
@[simp] theorem putCycle_reqRspCmd (c : Cycle) (s : State) : (putCycle c s).reqRspCmd = s.reqRspCmd := rfl
@[simp] theorem putCycle_reqNakCmd (c : Cycle) (s : State) : (putCycle c s).reqNakCmd = s.reqNakCmd := rfl
@[simp] theorem putCycle_timeout (c : Cycle) (s : State) : (putCycle c s).timeout = s.timeout := rfl
@[simp] theorem putCycle_maxRetries (c : Cycle) (s : State) : (putCycle c s).maxRetries = s.maxRetries := rfl
@[simp] theorem putCycle_retryOnTimeout (c : Cycle) (s : State) : (putCycle c s).retryOnTimeout = s.retryOnTimeout := rfl
@[simp] theorem putCycle_retryOnChannel (c : Cycle) (s : State) : (putCycle c s).retryOnChannel = s.retryOnChannel := rfl
@[simp] theorem attemptStart_reqAddr (s : State) : (attemptStart s).reqAddr = s.reqAddr := rfl
@[simp] theorem attemptStart_reqCmd (s : State) : (attemptStart s).reqCmd = s.reqCmd := rfl
@[simp] theorem attemptStart_reqRspCmd (s : State) : (attemptStart s).reqRspCmd = s.reqRspCmd := rfl
@[simp] theorem attemptStart_reqNakCmd (s : State) : (attemptStart s).reqNakCmd = s.reqNakCmd := rfl
@[simp] theorem attemptStart_timeout (s : State) : (attemptStart s).timeout = s.timeout := rfl
@[simp] theorem attemptStart_maxRetries (s : State) : (attemptStart s).maxRetries = s.maxRetries := rfl
@[simp] theorem attemptStart_retryOnTimeout (s : State) : (attemptStart s).retryOnTimeout = s.retryOnTimeout := rfl
@[simp] theorem attemptStart_retryOnChannel (s : State) : (attemptStart s).retryOnChannel = s.retryOnChannel := rfl
@[simp] theorem execStart_reqAddr (s : State) : (execStart s).reqAddr = s.reqAddr := rfl
@[simp] theorem execStart_reqCmd (s : State) : (execStart s).reqCmd = s.reqCmd := rfl
@[simp] theorem execStart_reqRspCmd (s : State) : (execStart s).reqRspCmd = s.reqRspCmd := rfl
@[simp] theorem execStart_reqNakCmd (s : State) : (execStart s).reqNakCmd = s.reqNakCmd := rfl
@[simp] theorem execStart_timeout (s : State) : (execStart s).timeout = s.timeout := rfl
@[simp] theorem execStart_maxRetries (s : State) : (execStart s).maxRetries = s.maxRetries := rfl
@[simp] theorem execStart_retryOnTimeout (s : State) : (execStart s).retryOnTimeout = s.retryOnTimeout := rfl
@[simp] theorem execStart_retryOnChannel (s : State) : (execStart s).retryOnChannel = s.retryOnChannel := rfl
@[simp] theorem txAccept_reqAddr (s : State) : (txAccept s).reqAddr = s.reqAddr := rfl
@[simp] theorem txAccept_reqCmd (s : State) : (txAccept s).reqCmd = s.reqCmd := rfl
@[simp] theorem txAccept_reqRspCmd (s : State) : (txAccept s).reqRspCmd = s.reqRspCmd := rfl
@[simp] theorem txAccept_reqNakCmd (s : State) : (txAccept s).reqNakCmd = s.reqNakCmd := rfl
@[simp] theorem txAccept_timeout (s : State) : (txAccept s).timeout = s.timeout := rfl
@[simp] theorem txAccept_maxRetries (s : State) : (txAccept s).maxRetries = s.maxRetries := rfl
@[simp] theorem txAccept_retryOnTimeout (s : State) : (txAccept s).retryOnTimeout = s.retryOnTimeout := rfl
@[simp] theorem txAccept_retryOnChannel (s : State) : (txAccept s).retryOnChannel = s.retryOnChannel := rfl
@[simp] theorem finish_reqAddr (o : TxnOutcome) (r : Reason) (s : State) : (finish o r s).reqAddr = s.reqAddr := rfl
@[simp] theorem finish_reqCmd (o : TxnOutcome) (r : Reason) (s : State) : (finish o r s).reqCmd = s.reqCmd := rfl
@[simp] theorem finish_reqRspCmd (o : TxnOutcome) (r : Reason) (s : State) : (finish o r s).reqRspCmd = s.reqRspCmd := rfl
@[simp] theorem finish_reqNakCmd (o : TxnOutcome) (r : Reason) (s : State) : (finish o r s).reqNakCmd = s.reqNakCmd := rfl
@[simp] theorem finish_timeout (o : TxnOutcome) (r : Reason) (s : State) : (finish o r s).timeout = s.timeout := rfl
@[simp] theorem finish_maxRetries (o : TxnOutcome) (r : Reason) (s : State) : (finish o r s).maxRetries = s.maxRetries := rfl
@[simp] theorem finish_retryOnTimeout (o : TxnOutcome) (r : Reason) (s : State) : (finish o r s).retryOnTimeout = s.retryOnTimeout := rfl
@[simp] theorem finish_retryOnChannel (o : TxnOutcome) (r : Reason) (s : State) : (finish o r s).retryOnChannel = s.retryOnChannel := rfl
@[simp] theorem record_reqAddr (f : Frame) (s : State) : (record f s).reqAddr = s.reqAddr := rfl
@[simp] theorem record_reqCmd (f : Frame) (s : State) : (record f s).reqCmd = s.reqCmd := rfl
@[simp] theorem record_reqRspCmd (f : Frame) (s : State) : (record f s).reqRspCmd = s.reqRspCmd := rfl
@[simp] theorem record_reqNakCmd (f : Frame) (s : State) : (record f s).reqNakCmd = s.reqNakCmd := rfl
@[simp] theorem record_timeout (f : Frame) (s : State) : (record f s).timeout = s.timeout := rfl
@[simp] theorem record_maxRetries (f : Frame) (s : State) : (record f s).maxRetries = s.maxRetries := rfl
@[simp] theorem record_retryOnTimeout (f : Frame) (s : State) : (record f s).retryOnTimeout = s.retryOnTimeout := rfl
@[simp] theorem record_retryOnChannel (f : Frame) (s : State) : (record f s).retryOnChannel = s.retryOnChannel := rfl
@[simp] theorem recordNak_reqAddr (f : Frame) (s : State) : (recordNak f s).reqAddr = s.reqAddr := rfl
@[simp] theorem recordNak_reqCmd (f : Frame) (s : State) : (recordNak f s).reqCmd = s.reqCmd := rfl
@[simp] theorem recordNak_reqRspCmd (f : Frame) (s : State) : (recordNak f s).reqRspCmd = s.reqRspCmd := rfl
@[simp] theorem recordNak_reqNakCmd (f : Frame) (s : State) : (recordNak f s).reqNakCmd = s.reqNakCmd := rfl
@[simp] theorem recordNak_timeout (f : Frame) (s : State) : (recordNak f s).timeout = s.timeout := rfl
@[simp] theorem recordNak_maxRetries (f : Frame) (s : State) : (recordNak f s).maxRetries = s.maxRetries := rfl
@[simp] theorem recordNak_retryOnTimeout (f : Frame) (s : State) : (recordNak f s).retryOnTimeout = s.retryOnTimeout := rfl
@[simp] theorem recordNak_retryOnChannel (f : Frame) (s : State) : (recordNak f s).retryOnChannel = s.retryOnChannel := rfl
@[simp] theorem chFail_reqAddr (r : Reason) (s : State) : (chFail r s).reqAddr = s.reqAddr := rfl
@[simp] theorem chFail_reqCmd (r : Reason) (s : State) : (chFail r s).reqCmd = s.reqCmd := rfl
@[simp] theorem chFail_reqRspCmd (r : Reason) (s : State) : (chFail r s).reqRspCmd = s.reqRspCmd := rfl
@[simp] theorem chFail_reqNakCmd (r : Reason) (s : State) : (chFail r s).reqNakCmd = s.reqNakCmd := rfl
@[simp] theorem chFail_timeout (r : Reason) (s : State) : (chFail r s).timeout = s.timeout := rfl
@[simp] theorem chFail_maxRetries (r : Reason) (s : State) : (chFail r s).maxRetries = s.maxRetries := rfl
@[simp] theorem chFail_retryOnTimeout (r : Reason) (s : State) : (chFail r s).retryOnTimeout = s.retryOnTimeout := rfl
@[simp] theorem chFail_retryOnChannel (r : Reason) (s : State) : (chFail r s).retryOnChannel = s.retryOnChannel := rfl
@[simp] theorem countDown_reqAddr (s : State) : (countDown s).reqAddr = s.reqAddr := rfl
@[simp] theorem countDown_reqCmd (s : State) : (countDown s).reqCmd = s.reqCmd := rfl
@[simp] theorem countDown_reqRspCmd (s : State) : (countDown s).reqRspCmd = s.reqRspCmd := rfl
@[simp] theorem countDown_reqNakCmd (s : State) : (countDown s).reqNakCmd = s.reqNakCmd := rfl
@[simp] theorem countDown_timeout (s : State) : (countDown s).timeout = s.timeout := rfl
@[simp] theorem countDown_maxRetries (s : State) : (countDown s).maxRetries = s.maxRetries := rfl
@[simp] theorem countDown_retryOnTimeout (s : State) : (countDown s).retryOnTimeout = s.retryOnTimeout := rfl
@[simp] theorem countDown_retryOnChannel (s : State) : (countDown s).retryOnChannel = s.retryOnChannel := rfl
@[simp] theorem dropRx_reqAddr (k : Nat) (s : State) : (dropRx k s).reqAddr = s.reqAddr := rfl
@[simp] theorem dropRx_reqCmd (k : Nat) (s : State) : (dropRx k s).reqCmd = s.reqCmd := rfl
@[simp] theorem dropRx_reqRspCmd (k : Nat) (s : State) : (dropRx k s).reqRspCmd = s.reqRspCmd := rfl
@[simp] theorem dropRx_reqNakCmd (k : Nat) (s : State) : (dropRx k s).reqNakCmd = s.reqNakCmd := rfl
@[simp] theorem dropRx_timeout (k : Nat) (s : State) : (dropRx k s).timeout = s.timeout := rfl
@[simp] theorem dropRx_maxRetries (k : Nat) (s : State) : (dropRx k s).maxRetries = s.maxRetries := rfl
@[simp] theorem dropRx_retryOnTimeout (k : Nat) (s : State) : (dropRx k s).retryOnTimeout = s.retryOnTimeout := rfl
@[simp] theorem dropRx_retryOnChannel (k : Nat) (s : State) : (dropRx k s).retryOnChannel = s.retryOnChannel := rfl
@[simp] theorem markInvalid_reqAddr (r : Reason) (s : State) : (markInvalid r s).reqAddr = s.reqAddr := rfl
@[simp] theorem markInvalid_reqCmd (r : Reason) (s : State) : (markInvalid r s).reqCmd = s.reqCmd := rfl
@[simp] theorem markInvalid_reqRspCmd (r : Reason) (s : State) : (markInvalid r s).reqRspCmd = s.reqRspCmd := rfl
@[simp] theorem markInvalid_reqNakCmd (r : Reason) (s : State) : (markInvalid r s).reqNakCmd = s.reqNakCmd := rfl
@[simp] theorem markInvalid_timeout (r : Reason) (s : State) : (markInvalid r s).timeout = s.timeout := rfl
@[simp] theorem markInvalid_maxRetries (r : Reason) (s : State) : (markInvalid r s).maxRetries = s.maxRetries := rfl
@[simp] theorem markInvalid_retryOnTimeout (r : Reason) (s : State) : (markInvalid r s).retryOnTimeout = s.retryOnTimeout := rfl
@[simp] theorem markInvalid_retryOnChannel (r : Reason) (s : State) : (markInvalid r s).retryOnChannel = s.retryOnChannel := rfl
@[simp] theorem appendRx_reqAddr (b : Byte) (s : State) : (appendRx b s).reqAddr = s.reqAddr := rfl
@[simp] theorem appendRx_reqCmd (b : Byte) (s : State) : (appendRx b s).reqCmd = s.reqCmd := rfl
@[simp] theorem appendRx_reqRspCmd (b : Byte) (s : State) : (appendRx b s).reqRspCmd = s.reqRspCmd := rfl
@[simp] theorem appendRx_reqNakCmd (b : Byte) (s : State) : (appendRx b s).reqNakCmd = s.reqNakCmd := rfl
@[simp] theorem appendRx_timeout (b : Byte) (s : State) : (appendRx b s).timeout = s.timeout := rfl
@[simp] theorem appendRx_maxRetries (b : Byte) (s : State) : (appendRx b s).maxRetries = s.maxRetries := rfl
@[simp] theorem appendRx_retryOnTimeout (b : Byte) (s : State) : (appendRx b s).retryOnTimeout = s.retryOnTimeout := rfl
@[simp] theorem appendRx_retryOnChannel (b : Byte) (s : State) : (appendRx b s).retryOnChannel = s.retryOnChannel := rfl

end Sys2Proof.Machine
end

