-- ==== Sys2Proof/Laws/Config.lean ====
section
/-! SUPPORT. The values derived from CFG: their ranges (00_scope.md R8, R9). -/

namespace Sys2Proof

theorem Config.startLen_pos (cfg : Config) : 1 ≤ cfg.startLen := by
  unfold Config.startLen; split <;> omega

theorem Config.startLen_le (cfg : Config) : cfg.startLen ≤ 2 := by
  unfold Config.startLen; split <;> omega

theorem Config.lenW_cases (cfg : Config) : cfg.lenW = 1 ∨ cfg.lenW = 2 := by
  unfold Config.lenW; split <;> simp

theorem Config.chkW_cases (cfg : Config) : cfg.chkW = 1 ∨ cfg.chkW = 2 := by
  unfold Config.chkW; split <;> simp

theorem Config.startBytes_length (cfg : Config) : cfg.startBytes.length = cfg.startLen := by
  unfold Config.startBytes Config.startLen; split <;> rfl

/-- MAX_PAYLOAD fits the length field: with one byte it is at most 255 (00_scope.md R8). -/
theorem Config.maxPayload_of_lenW_one (cfg : Config) (h : cfg.lenW = 1) : cfg.maxPayload < 256 := by
  obtain ⟨start, len, lenOrder, chkAlg, chkOrder⟩ := cfg
  cases len with
  | one m => exact m.isLt
  | two m => simp [Config.lenW] at h

/-- MAX_PAYLOAD fits the length field: it is at most 65535 (00_scope.md R8). -/
theorem Config.maxPayload_lt (cfg : Config) : cfg.maxPayload < 65536 := by
  unfold Config.maxPayload
  split
  · rename_i m _
    have := m.isLt
    omega
  · rename_i m _
    exact m.isLt

theorem Config.windowWords_le (cfg : Config) : cfg.windowWords ≤ 16384 := by
  have := cfg.maxPayload_lt
  unfold Config.windowWords
  omega

theorem Config.hdrLen_eq (cfg : Config) : cfg.hdrLen = cfg.startLen + 2 + cfg.lenW := rfl

theorem Config.frameLen_eq (cfg : Config) (n : Nat) : cfg.frameLen n = cfg.hdrLen + n + cfg.chkW := rfl

theorem Config.hdrLen_ge (cfg : Config) : 4 ≤ cfg.hdrLen := by
  have := cfg.startLen_pos
  have := cfg.lenW_cases
  unfold Config.hdrLen
  omega

/-- The longest frame has fewer bytes than TXIDX can count (10_state.md R18, R21). -/
theorem Config.frameLen_lt (cfg : Config) (n : Nat) (h : n ≤ cfg.maxPayload) : cfg.frameLen n < 131072 := by
  have := cfg.startLen_le
  have := cfg.lenW_cases
  have := cfg.chkW_cases
  have := cfg.maxPayload_lt
  unfold Config.frameLen Config.hdrLen
  omega

theorem Config.frameLen_le_maxFrame (cfg : Config) (n : Nat) (h : n ≤ cfg.maxPayload) :
    cfg.frameLen n ≤ cfg.maxFrame := by
  unfold Config.maxFrame Config.frameLen
  omega

end Sys2Proof
end

