-- ==== Sys2Proof/Laws/Codec.lean ====
section
/-! SUPPORT. The frame codec: the marker search, and once for each result of the decoder what it says of the buffer
(40_frame_codec.md R81, R82). -/

namespace Sys2Proof.Machine

theorem scanMarker_spec (cfg : Config) (B : List Byte) (i : Nat) :
    i ≤ scanMarker cfg B i ∧ scanMarker cfg B i ≤ i + B.length
      ∧ (scanMarker cfg B i < i + B.length → plausibleHead cfg (B.drop (scanMarker cfg B i - i)) = true)
      ∧ ∀ j, i ≤ j → j < scanMarker cfg B i → plausibleHead cfg (B.drop (j - i)) = false := by
  induction B generalizing i with
  | nil => simp [scanMarker]; omega
  | cons b B ih =>
    simp only [scanMarker]
    split
    · rename_i h
      refine ⟨Nat.le_refl _, Nat.le_add_right _ _, fun _ => by simpa using h, fun j h1 h2 => by omega⟩
    · rename_i h
      obtain ⟨h1, h2, h3, h4⟩ := ih (i + 1)
      simp only [List.length_cons]
      refine ⟨by omega, by omega, ?_, ?_⟩
      · intro hlt
        have e : scanMarker cfg B (i + 1) - i = (scanMarker cfg B (i + 1) - (i + 1)) + 1 := by omega
        rw [e, List.drop_succ_cons]
        exact h3 (by omega)
      · intro j hj1 hj2
        by_cases hj : j = i
        · subst hj
          simpa using h
        · have e : j - i = (j - (i + 1)) + 1 := by omega
          rw [e, List.drop_succ_cons]
          exact h4 j (by omega) hj2

/-- `nextmarker(B, j)` is the first plausible index from `j` on, or the length of `B` (40_frame_codec.md R81). -/
theorem nextMarker_spec (cfg : Config) (B : List Byte) (j : Nat) (hj : j ≤ B.length) :
    j ≤ nextMarker cfg B j ∧ nextMarker cfg B j ≤ B.length
      ∧ (nextMarker cfg B j < B.length → plausible cfg B (nextMarker cfg B j) = true)
      ∧ ∀ i, j ≤ i → i < nextMarker cfg B j → plausible cfg B i = false := by
  obtain ⟨h1, h2, h3, h4⟩ := scanMarker_spec cfg (B.drop j) j
  simp only [List.length_drop, List.drop_drop] at h2 h3 h4
  refine ⟨h1, by unfold nextMarker; omega, ?_, ?_⟩
  · intro h
    unfold nextMarker at h ⊢
    have := h3 (by omega)
    rwa [show j + (scanMarker cfg (B.drop j) j - j) = scanMarker cfg (B.drop j) j by omega] at this
  · intro i hi1 hi2
    have := h4 i hi1 hi2
    rwa [show j + (i - j) = i by omega] at this

/-- `plausible(B, 0)` of a buffer whose first bytes are there (40_frame_codec.md R81). -/
theorem plausible_zero (cfg : Config) (B : List Byte) : plausible cfg B 0 = plausibleHead cfg B := by
  simp [plausible]

/-- What `Incomplete` says of a buffer (40_frame_codec.md R82). -/
theorem decodeFrame_incomplete {cfg : Config} {B : List Byte} (h : decodeFrame cfg B = .incomplete) :
    B = [] ∨ (plausible cfg B 0 = true ∧ (B.length < cfg.hdrLen ∨
      (lengthField cfg B ≤ cfg.maxPayload ∧ B.length < cfg.frameLen (lengthField cfg B)))) := by
  unfold decodeFrame at h
  split at h
  · rename_i h0
    exact .inl (List.eq_nil_of_length_eq_zero h0)
  · split at h
    · simp at h
    · rename_i hp
      refine .inr ⟨by simpa using hp, ?_⟩
      split at h
      · exact .inl ‹_›
      · split at h
        · simp at h
        · rename_i hl
          split at h
          · exact .inr ⟨by omega, ‹_›⟩
          · split at h <;> simp at h

/-- What `Corrupt` says of a buffer: it is not empty, and the discard ends at the next plausible marker from index 1 on
(40_frame_codec.md R82). -/
theorem decodeFrame_corrupt {cfg : Config} {B : List Byte} {r : CorruptReason} {k : Nat}
    (h : decodeFrame cfg B = .corrupt r k) : 0 < B.length ∧ k = nextMarker cfg B 1 := by
  unfold decodeFrame at h
  split at h
  · simp at h
  · rename_i h0
    refine ⟨by omega, ?_⟩
    split at h
    · simp at h; exact h.2.symm
    · split at h
      · simp at h
      · split at h
        · simp at h; exact h.2.symm
        · split at h
          · simp at h
          · split at h
            · simp at h; exact h.2.symm
            · simp at h

/-- A corrupt result removes at least one byte, and no more than there are (40_frame_codec.md R82). -/
theorem decodeFrame_corrupt_bounds {cfg : Config} {B : List Byte} {r : CorruptReason} {k : Nat}
    (h : decodeFrame cfg B = .corrupt r k) : 1 ≤ k ∧ k ≤ B.length := by
  obtain ⟨h0, rfl⟩ := decodeFrame_corrupt h
  have := nextMarker_spec cfg B 1 (by omega)
  exact ⟨this.1, this.2.1⟩

/-- What `Ok` says of a buffer (40_frame_codec.md R82). -/
theorem decodeFrame_ok {cfg : Config} {B : List Byte} {f : Frame} {n : Nat} (h : decodeFrame cfg B = .ok f n) :
    plausible cfg B 0 = true ∧ cfg.hdrLen ≤ B.length ∧ lengthField cfg B ≤ cfg.maxPayload
      ∧ n = cfg.frameLen (lengthField cfg B) ∧ n ≤ B.length
      ∧ checksum cfg (slice B cfg.startLen (cfg.hdrLen + lengthField cfg B)) = receivedChecksum cfg B n
      ∧ f = ⟨byteAt B cfg.startLen, byteAt B (cfg.startLen + 1),
          slice B cfg.hdrLen (cfg.hdrLen + lengthField cfg B)⟩ := by
  unfold decodeFrame at h
  split at h
  · simp at h
  · split at h
    · simp at h
    · rename_i hp
      split at h
      · simp at h
      · split at h
        · simp at h
        · split at h
          · simp at h
          · split at h
            · simp at h
            · rename_i hc
              simp only [DecodeResult.ok.injEq] at h
              obtain ⟨rfl, rfl⟩ := h
              exact ⟨by simpa using hp, by omega, by omega, rfl, by omega, by simpa using hc, rfl⟩

theorem slice_length (B : List Byte) (i j : Nat) (hj : j ≤ B.length) : (slice B i j).length = j - i := by
  simp [slice]
  omega

/-- The payload of a decoded frame has the declared length (40_frame_codec.md R83). -/
theorem decodeFrame_ok_payload {cfg : Config} {B : List Byte} {f : Frame} {n : Nat}
    (h : decodeFrame cfg B = .ok f n) : f.payload.length = lengthField cfg B := by
  obtain ⟨-, -, -, hn, hB, -, rfl⟩ := decodeFrame_ok h
  rw [slice_length]
  · omega
  · rw [Config.frameLen_eq] at hn
    omega

/-- An `Ok` result removes at least one byte, and no more than there are (40_frame_codec.md R82). -/
theorem decodeFrame_ok_bounds {cfg : Config} {B : List Byte} {f : Frame} {n : Nat} (h : decodeFrame cfg B = .ok f n) :
    1 ≤ n ∧ n ≤ B.length ∧ f.payload.length ≤ cfg.maxPayload := by
  obtain ⟨-, hh, hl, hn, hB, -, -⟩ := decodeFrame_ok h
  have := cfg.hdrLen_ge
  rw [Config.frameLen_eq] at hn
  refine ⟨by omega, hB, ?_⟩
  rw [decodeFrame_ok_payload h]
  exact hl

/-- An incomplete buffer is shorter than the longest frame (41_synchronizer.md R86). -/
theorem decodeFrame_incomplete_length {cfg : Config} {B : List Byte} (h : decodeFrame cfg B = .incomplete) :
    B.length < cfg.maxFrame := by
  have h4 := cfg.hdrLen_ge
  rcases decodeFrame_incomplete h with rfl | ⟨-, hlt | ⟨hl, hlt⟩⟩
  · simp only [List.length_nil, Config.maxFrame, Config.frameLen_eq]
    omega
  · simp only [Config.maxFrame, Config.frameLen_eq]
    omega
  · exact Nat.lt_of_lt_of_le hlt (cfg.frameLen_le_maxFrame _ hl)

theorem decodeFrame_nil (cfg : Config) : decodeFrame cfg [] = .incomplete := rfl

end Sys2Proof.Machine
end

