-- ==== Sys2Proof/Laws/Memory.lean ====
section
/-! SUPPORT. The payload memories: what one write and a run of writes do to every index, and that they keep the canonical
form and the bound on indexes; the writes of one host word (20_memory.md R46). -/

namespace Sys2Proof.Machine

/-- All indexes of a memory lie above `i`. -/
def AllAbove (i : Nat) (m : Memory) : Prop := ∀ c ∈ m, i < c.1

theorem Memory.read?_write (m : Memory) (i : Nat) (v : Byte) (j : Nat) :
    Memory.read? (Memory.write m i v) j = if j = i then some v else Memory.read? m j := by
  induction m with
  | nil =>
    by_cases h : j = i
    · simp [Memory.write, Memory.read?, h]
    · simp [Memory.write, Memory.read?, h, Ne.symm h]
  | cons c m ih =>
    obtain ⟨a, b⟩ := c
    simp only [Memory.write]
    split
    · by_cases h : j = i
      · simp [Memory.read?, h]
      · simp [Memory.read?, h, Ne.symm h]
    · split
      · rename_i h1 h2
        subst h2
        by_cases h : j = i
        · simp [Memory.read?, h]
        · simp [Memory.read?, h, Ne.symm h]
      · by_cases h : a = j
        · subst h
          simp [Memory.read?]
          omega
        · simp [Memory.read?, h, ih]

theorem Memory.wf_cons (c : Host.Cell) (m : Memory) :
    Memory.wf (c :: m) = true ↔ AllAbove c.1 m ∧ Memory.wf m = true := by
  induction m generalizing c with
  | nil => simp [Memory.wf, AllAbove]
  | cons d m ih =>
    obtain ⟨a, b⟩ := c
    obtain ⟨a', b'⟩ := d
    simp only [Memory.wf, Bool.and_eq_true, decide_eq_true_eq]
    constructor
    · rintro ⟨h1, h2⟩
      refine ⟨?_, h2⟩
      intro e he
      rcases List.mem_cons.mp he with rfl | he
      · exact h1
      · exact Nat.lt_trans h1 (((ih (a', b')).mp h2).1 e he)
    · rintro ⟨h1, h2⟩
      exact ⟨h1 (a', b') (by simp), h2⟩

theorem Memory.mem_write (m : Memory) (i : Nat) (v : Byte) (c : Host.Cell) (h : c ∈ Memory.write m i v) :
    c = (i, v) ∨ c ∈ m := by
  induction m with
  | nil => simpa [Memory.write] using h
  | cons d m ih =>
    obtain ⟨a, b⟩ := d
    simp only [Memory.write] at h
    split at h
    · simpa using h
    · split at h
      · rcases List.mem_cons.mp h with h | h
        · exact .inl h
        · exact .inr (List.mem_cons_of_mem _ h)
      · rcases List.mem_cons.mp h with h | h
        · exact .inr (by simp [h])
        · rcases ih h with h | h
          · exact .inl h
          · exact .inr (List.mem_cons_of_mem _ h)

theorem Memory.wf_write (m : Memory) (i : Nat) (v : Byte) (h : Memory.wf m = true) :
    Memory.wf (Memory.write m i v) = true := by
  induction m with
  | nil => rfl
  | cons c m ih =>
    obtain ⟨a, b⟩ := c
    have h' := (Memory.wf_cons _ _).mp h
    simp only [Memory.write]
    split
    · rename_i hlt
      refine (Memory.wf_cons _ _).mpr ⟨?_, h⟩
      intro e he
      rcases List.mem_cons.mp he with rfl | he
      · exact hlt
      · exact Nat.lt_trans hlt (h'.1 e he)
    · split
      · rename_i heq
        subst heq
        exact (Memory.wf_cons _ _).mpr h'
      · refine (Memory.wf_cons _ _).mpr ⟨?_, ih h'.2⟩
        intro e he
        rcases Memory.mem_write m i v e he with rfl | he
        · show a < i
          omega
        · exact h'.1 e he

theorem Memory.read?_writeBytes (bs : List Byte) (m : Memory) (i j : Nat) :
    Memory.read? (Memory.writeBytes m i bs) j =
      if i ≤ j ∧ j < i + bs.length then bs[j - i]? else Memory.read? m j := by
  induction bs generalizing m i with
  | nil =>
    rw [if_neg (by simp)]
    rfl
  | cons b bs ih =>
    simp only [Memory.writeBytes, ih, Memory.read?_write, List.length_cons]
    rcases Nat.lt_trichotomy j i with h | h | h
    · rw [if_neg (by omega), if_neg (by omega), if_neg (by omega)]
    · subst h
      rw [if_neg (by omega), if_pos rfl, if_pos (by omega)]
      simp
    · have hji : j - i = (j - (i + 1)) + 1 := by omega
      by_cases h' : j < i + 1 + bs.length
      · rw [if_pos (by omega), if_pos (by omega), hji, List.getElem?_cons_succ]
      · rw [if_neg (by omega), if_neg (by omega), if_neg (by omega)]

theorem Memory.wf_writeBytes (bs : List Byte) (m : Memory) (i : Nat) (h : Memory.wf m = true) :
    Memory.wf (Memory.writeBytes m i bs) = true := by
  induction bs generalizing m i with
  | nil => exact h
  | cons b bs ih => exact ih _ _ (Memory.wf_write m i b h)

theorem Memory.bound_write {m : Memory} {i n : Nat} {v : Byte} (hm : ∀ c ∈ m, c.1 < n) (hi : i < n) :
    ∀ c ∈ Memory.write m i v, c.1 < n := by
  intro c hc
  rcases Memory.mem_write m i v c hc with rfl | hc
  · exact hi
  · exact hm c hc

theorem Memory.bound_writeBytes (bs : List Byte) (m : Memory) (i n : Nat) (hm : ∀ c ∈ m, c.1 < n)
    (hi : i + bs.length ≤ n) : ∀ c ∈ Memory.writeBytes m i bs, c.1 < n := by
  induction bs generalizing m i with
  | nil => exact hm
  | cons b bs ih =>
    simp only [List.length_cons] at hi
    exact ih _ _ (Memory.bound_write hm (by omega)) (by omega)

/-- The write of one host word: the bytes of the word below MAX_PAYLOAD, and no other index (20_memory.md R46). -/
theorem read?_writeWindow (cfg : Config) (m : Memory) (w : Nat) (d : Word) (j : Nat) :
    Memory.read? (writeWindow cfg m w d) j =
      if 4 * w ≤ j ∧ j < 4 * w + 4 ∧ j < cfg.maxPayload then some (wordByte d (j - 4 * w)) else Memory.read? m j := by
  have step : ∀ (m : Memory) (k : Nat),
      Memory.read? (writeWindowByte cfg w d m k) j =
        if j = 4 * w + k ∧ j < cfg.maxPayload then some (wordByte d k) else Memory.read? m j := by
    intro m k
    unfold writeWindowByte
    split
    · rw [Memory.read?_write]
      by_cases h : j = 4 * w + k
      · rw [if_pos h, if_pos (by omega)]
      · rw [if_neg h, if_neg (by omega)]
    · rw [if_neg (by omega)]
  simp only [writeWindow, List.foldl_cons, List.foldl_nil, step]
  by_cases hj : j < cfg.maxPayload
  · by_cases h0 : j = 4 * w
    · subst h0; simp [hj]
    by_cases h1 : j = 4 * w + 1
    · subst h1; simp [hj]
    by_cases h2 : j = 4 * w + 2
    · subst h2; simp [hj]
    by_cases h3 : j = 4 * w + 3
    · subst h3; simp [hj]
    rw [if_neg (by omega), if_neg (by omega), if_neg (by omega), if_neg (by omega), if_neg (by omega)]
  · rw [if_neg (by omega), if_neg (by omega), if_neg (by omega), if_neg (by omega), if_neg (by omega)]

theorem wf_writeWindow (cfg : Config) (m : Memory) (w : Nat) (d : Word) (h : Memory.wf m = true) :
    Memory.wf (writeWindow cfg m w d) = true := by
  have step : ∀ (m : Memory) (k : Nat), Memory.wf m = true → Memory.wf (writeWindowByte cfg w d m k) = true := by
    intro m k h
    unfold writeWindowByte
    split
    · exact Memory.wf_write _ _ _ h
    · exact h
  exact step _ _ (step _ _ (step _ _ (step _ _ h)))

theorem bound_writeWindow (cfg : Config) (m : Memory) (w : Nat) (d : Word) (h : ∀ c ∈ m, c.1 < cfg.maxPayload) :
    ∀ c ∈ writeWindow cfg m w d, c.1 < cfg.maxPayload := by
  have step : ∀ (m : Memory) (k : Nat), (∀ c ∈ m, c.1 < cfg.maxPayload) →
      ∀ c ∈ writeWindowByte cfg w d m k, c.1 < cfg.maxPayload := by
    intro m k h
    unfold writeWindowByte
    split
    · rename_i hk
      exact Memory.bound_write h hk
    · exact h
  exact step _ _ (step _ _ (step _ _ (step _ _ h)))

end Sys2Proof.Machine
end

