-- ==== Sys2Proof/Laws/Ops.lean ====
section
/-! SUPPORT. Once for each shared operation, everything it can do: the lemmas that proofs cite instead of unfolding the
operation (43_host_ops.md, 42_sequencer.md, 41_synchronizer.md). -/

namespace Sys2Proof.Machine

/-- A guarded write is refused while BUSY and carried out in IDLE (10_state.md R38). -/
theorem guardedWrite_cases (write : State → State) (s : State) :
    (s.phase ≠ .idle ∧ guardedWrite write s = answerWrite (setErr .writeWhileBusy s))
      ∨ (s.phase = .idle ∧ guardedWrite write s = answerWrite (write s)) := by
  by_cases h : s.phase = .idle
  · exact .inr ⟨h, by simp [guardedWrite, State.busy, h]⟩
  · exact .inl ⟨h, by simp [guardedWrite, State.busy, h]⟩

/-- EXECUTE: the first check that fails is recorded, or the transaction starts (43_host_ops.md R130). -/
theorem executeCommand_cases (s : State) :
    (s.phase ≠ .idle ∧ executeCommand s = setErr .execWhileBusy s)
      ∨ (s.phase = .idle ∧ s.cfg.maxPayload < s.txLen.toNat ∧ executeCommand s = setErr .payloadTooLarge s)
      ∨ (s.phase = .idle ∧ s.txLen.toNat ≤ s.cfg.maxPayload ∧ s.timeout = 0#16
        ∧ executeCommand s = setErr .badTimeout s)
      ∨ (s.phase = .idle ∧ s.txLen.toNat ≤ s.cfg.maxPayload ∧ s.timeout ≠ 0#16 ∧ executeCommand s = execStart s) := by
  by_cases h : s.phase = .idle
  · by_cases hl : s.cfg.maxPayload < s.txLen.toNat
    · exact .inr (.inl ⟨h, hl, by simp [executeCommand, State.busy, h, hl]⟩)
    · by_cases ht : s.timeout = 0#16
      · exact .inr (.inr (.inl ⟨h, by omega, ht, by simp [executeCommand, State.busy, h, hl, ht]⟩))
      · exact .inr (.inr (.inr ⟨h, by omega, ht, by simp [executeCommand, State.busy, h, hl, ht]⟩))
  · exact .inl ⟨h, by simp [executeCommand, State.busy, h]⟩

/-- `fail`: a retry where the kind is eligible and retries remain, else the end of the transaction (42_sequencer.md R98,
R99). -/
theorem fail_cases (K : TxnOutcome) (r : Reason) (s : State) :
    (mayRetry s K ∧ fail K r s = attemptStart s) ∨ (¬ mayRetry s K ∧ fail K r s = finish K r s) := by
  unfold fail
  split
  · rename_i h
    refine .inl ⟨?_, rfl⟩
    cases K <;> simp_all [mayRetry, eligible]
  · rename_i h
    refine .inr ⟨?_, rfl⟩
    cases K <;> simp_all [mayRetry, eligible]

/-- `expire` while busy fails the attempt with the kind and the reason of its phase (42_sequencer.md R103). -/
theorem expire_eq (s : State) (h : s.phase ≠ .idle) :
    expire s = fail (attemptFailure s).1 (attemptFailure s).2 s := by
  unfold expire attemptFailure
  cases hp : s.phase <;> simp_all
  split <;> rfl

/-- `tick` while busy: DL goes down, and at 0 the attempt fails, a retry or the end (42_sequencer.md R102, R103). -/
theorem tick_cases (s : State) (h : s.phase ≠ .idle) :
    (s.dl ≠ 1#16 ∧ tick s = countDown s)
      ∨ (s.dl = 1#16 ∧ mayRetry s (attemptFailure s).1 ∧ tick s = attemptStart (countDown s))
      ∨ (s.dl = 1#16 ∧ ¬ mayRetry s (attemptFailure s).1
        ∧ tick s = finish (attemptFailure s).1 (attemptFailure s).2 (countDown s)) := by
  unfold tick
  split
  · rename_i h0
    have h1 : s.dl = 1#16 := by bv_omega
    rw [expire_eq (countDown s) h]
    rcases fail_cases (attemptFailure s).1 (attemptFailure s).2 (countDown s) with ⟨hr, he⟩ | ⟨hr, he⟩
    · exact .inr (.inl ⟨h1, hr, he⟩)
    · exact .inr (.inr ⟨h1, hr, he⟩)
  · rename_i h0
    refine .inl ⟨?_, rfl⟩
    intro h1
    exact h0 (by rw [h1]; rfl)

/-- `classify`: NAK, then the expected response, else the frame is noted as unexpected (42_sequencer.md R95). -/
theorem classify_cases (f : Frame) (s : State) :
    (f.cmd = s.reqNakCmd ∧ classify f s = (.terminal, finish .nak .none (recordNak f (record f s))))
      ∨ (f.cmd ≠ s.reqNakCmd ∧ f.cmd = s.reqRspCmd ∧ classify f s = (.terminal, finish .success .none (record f s)))
      ∨ (f.cmd ≠ s.reqNakCmd ∧ f.cmd ≠ s.reqRspCmd ∧ classify f s = (.goOn, markInvalid .unexpected s)) := by
  by_cases h : f.cmd = s.reqNakCmd
  · exact .inl ⟨h, by simp [classify, h]⟩
  · by_cases h' : f.cmd = s.reqRspCmd
    · refine .inr (.inl ⟨h, h', ?_⟩)
      unfold classify
      rw [if_neg h, if_pos h']
    · exact .inr (.inr ⟨h, h', by simp [classify, h, h', markInvalid]⟩)

/-- A channel failure where the phase allows it (42_sequencer.md R100). -/
theorem chFailIfActive_cases (r : Reason) (s : State) :
    ((s.phase = .tx ∨ s.phase = .rx) ∧ chFailIfActive r s = chFail r s)
      ∨ ((s.phase = .idle ∨ s.phase = .holdoff) ∧ chFailIfActive r s = s) := by
  unfold chFailIfActive
  cases hp : s.phase <;> simp

/-- One turn of the decode loop, or its end (41_synchronizer.md R88). -/
theorem rxLoop_succ (fuel : Nat) (s : State) :
    (decodeFrame s.cfg s.rxBuf = .incomplete ∧ rxLoop (fuel + 1) s = s)
      ∨ (∃ k, decodeFrame s.cfg s.rxBuf = .corrupt .noStart k ∧ rxLoop (fuel + 1) s = rxLoop fuel (dropRx k s))
      ∨ (∃ k, decodeFrame s.cfg s.rxBuf = .corrupt .length k
        ∧ rxLoop (fuel + 1) s = rxLoop fuel (dropRx k (markInvalid .length s)))
      ∨ (∃ k, decodeFrame s.cfg s.rxBuf = .corrupt .checksum k
        ∧ rxLoop (fuel + 1) s = rxLoop fuel (dropRx k (markInvalid .checksum s)))
      ∨ (∃ f n, decodeFrame s.cfg s.rxBuf = .ok f n ∧ f.cmd ≠ s.reqNakCmd ∧ f.cmd ≠ s.reqRspCmd
        ∧ rxLoop (fuel + 1) s = rxLoop fuel (dropRx n (markInvalid .unexpected s)))
      ∨ (∃ f n, decodeFrame s.cfg s.rxBuf = .ok f n ∧ f.cmd = s.reqNakCmd
        ∧ rxLoop (fuel + 1) s = finish .nak .none (recordNak f (record f s)))
      ∨ (∃ f n, decodeFrame s.cfg s.rxBuf = .ok f n ∧ f.cmd ≠ s.reqNakCmd ∧ f.cmd = s.reqRspCmd
        ∧ rxLoop (fuel + 1) s = finish .success .none (record f s)) := by
  cases hd : decodeFrame s.cfg s.rxBuf with
  | incomplete => exact .inl ⟨rfl, by simp only [rxLoop, hd]⟩
  | corrupt r k =>
    cases r with
    | noStart => exact .inr (.inl ⟨k, rfl, by simp only [rxLoop, hd]⟩)
    | length => exact .inr (.inr (.inl ⟨k, rfl, by simp only [rxLoop, hd]⟩))
    | checksum => exact .inr (.inr (.inr (.inl ⟨k, rfl, by simp only [rxLoop, hd]⟩)))
  | ok f n =>
    rcases classify_cases f s with ⟨h, he⟩ | ⟨h, h', he⟩ | ⟨h, h', he⟩
    · exact .inr (.inr (.inr (.inr (.inr (.inl ⟨f, n, rfl, h, by simp only [rxLoop, hd, he]⟩)))))
    · exact .inr (.inr (.inr (.inr (.inr (.inr ⟨f, n, rfl, h, h', by simp only [rxLoop, hd, he]⟩)))))
    · exact .inr (.inr (.inr (.inr (.inl ⟨f, n, rfl, h, h', by simp only [rxLoop, hd, he]⟩))))

/-- The ways a run of the decode loop can end: with an incomplete buffer, or with the end of the transaction by a NAK or an
expected response; everything but RXBUF, INV_SEEN and INV_RSN is as it was until then (41_synchronizer.md R88). -/
inductive RxEnd (s : State) : State → Prop where
  | wait (B : List Byte) (seen : Bool) (r : Reason)
      (hB : decodeFrame s.cfg B = .incomplete)
      (hr : (seen = s.invSeen ∧ r = s.invRsn) ∨ (seen = true ∧ r.isInvalid = true)) :
      RxEnd s { s with rxBuf := B, invSeen := seen, invRsn := r }
  | nak (f : Frame) (t : State) (hf : f.payload.length ≤ s.cfg.maxPayload) (hc : f.cmd = s.reqNakCmd)
      (ht : ∃ B seen r, t = { s with rxBuf := B, invSeen := seen, invRsn := r }) :
      RxEnd s (finish .nak .none (recordNak f (record f t)))
  | success (f : Frame) (t : State) (hf : f.payload.length ≤ s.cfg.maxPayload) (hn : f.cmd ≠ s.reqNakCmd)
      (hc : f.cmd = s.reqRspCmd)
      (ht : ∃ B seen r, t = { s with rxBuf := B, invSeen := seen, invRsn := r }) :
      RxEnd s (finish .success .none (record f t))

theorem RxEnd.of_turn {s u v : State} {B : List Byte} {seen : Bool} {r : Reason}
    (hu : u = { s with rxBuf := B, invSeen := seen, invRsn := r })
    (hr : (seen = s.invSeen ∧ r = s.invRsn) ∨ (seen = true ∧ r.isInvalid = true)) (h : RxEnd u v) : RxEnd s v := by
  subst hu
  cases h with
  | wait B' seen' r' hB' hr' =>
    refine RxEnd.wait (s := s) B' seen' r' hB' ?_
    rcases hr' with ⟨rfl, rfl⟩ | hr'
    · exact hr
    · exact .inr hr'
  | nak f t hf hc ht =>
    obtain ⟨B', seen', r', rfl⟩ := ht
    exact RxEnd.nak (s := s) f _ hf hc ⟨B', seen', r', rfl⟩
  | success f t hf hn hc ht =>
    obtain ⟨B', seen', r', rfl⟩ := ht
    exact RxEnd.success (s := s) f _ hf hn hc ⟨B', seen', r', rfl⟩

/-- What the decode loop can do, with turns enough for the bytes there are (41_synchronizer.md R88). -/
theorem rxLoop_end (fuel : Nat) (s : State) (h : s.rxBuf.length < fuel) : RxEnd s (rxLoop fuel s) := by
  induction fuel generalizing s with
  | zero => omega
  | succ fuel ih =>
    have turn : ∀ (k : Nat) (u : State) (seen : Bool) (r : Reason), 1 ≤ k → k ≤ s.rxBuf.length →
        u = { s with rxBuf := s.rxBuf.drop k, invSeen := seen, invRsn := r } →
        ((seen = s.invSeen ∧ r = s.invRsn) ∨ (seen = true ∧ r.isInvalid = true)) → RxEnd s (rxLoop fuel u) := by
      intro k u seen r h1 h2 hu hr
      refine RxEnd.of_turn hu hr (ih u ?_)
      subst hu
      simp only [List.length_drop]
      omega
    rcases rxLoop_succ fuel s with ⟨hd, he⟩ | ⟨k, hd, he⟩ | ⟨k, hd, he⟩ | ⟨k, hd, he⟩ | ⟨f, n, hd, -, -, he⟩
      | ⟨f, n, hd, hc, he⟩ | ⟨f, n, hd, hn, hc, he⟩
    · rw [he]
      exact RxEnd.wait (s := s) s.rxBuf s.invSeen s.invRsn hd (.inl ⟨rfl, rfl⟩)
    · rw [he]
      have hk := decodeFrame_corrupt_bounds hd
      exact turn k _ s.invSeen s.invRsn hk.1 hk.2 rfl (.inl ⟨rfl, rfl⟩)
    · rw [he]
      have hk := decodeFrame_corrupt_bounds hd
      exact turn k _ true .length hk.1 hk.2 rfl (.inr ⟨rfl, rfl⟩)
    · rw [he]
      have hk := decodeFrame_corrupt_bounds hd
      exact turn k _ true .checksum hk.1 hk.2 rfl (.inr ⟨rfl, rfl⟩)
    · rw [he]
      have hk := decodeFrame_ok_bounds hd
      exact turn n _ true .unexpected hk.1 hk.2.1 rfl (.inr ⟨rfl, rfl⟩)
    · rw [he]
      exact RxEnd.nak (s := s) f s (decodeFrame_ok_bounds hd).2.2 hc ⟨s.rxBuf, s.invSeen, s.invRsn, rfl⟩
    · rw [he]
      exact RxEnd.success (s := s) f s (decodeFrame_ok_bounds hd).2.2 hn hc ⟨s.rxBuf, s.invSeen, s.invRsn, rfl⟩

/-- More turns than the buffer has bytes make no difference (41_synchronizer.md R88, 70_reset_and_hazards.md R168). -/
theorem rxLoop_fuel (a b : Nat) (s : State) (ha : s.rxBuf.length < a) (hb : s.rxBuf.length < b) :
    rxLoop a s = rxLoop b s := by
  induction a generalizing s b with
  | zero => omega
  | succ a ih =>
    obtain ⟨b, rfl⟩ : ∃ b', b = b' + 1 := ⟨b - 1, by omega⟩
    have turn : ∀ (u : State) (k : Nat), 1 ≤ k → k ≤ s.rxBuf.length → u.rxBuf = s.rxBuf.drop k →
        rxLoop a u = rxLoop b u := by
      intro u k h1 h2 hu
      have : u.rxBuf.length = s.rxBuf.length - k := by rw [hu, List.length_drop]
      exact ih b u (by omega) (by omega)
    cases hd : decodeFrame s.cfg s.rxBuf with
    | incomplete => simp only [rxLoop, hd]
    | corrupt r k =>
      have hk := decodeFrame_corrupt_bounds hd
      cases r <;> simp only [rxLoop, hd] <;> exact turn _ k hk.1 hk.2 rfl
    | ok f n =>
      have hk := decodeFrame_ok_bounds hd
      rcases classify_cases f s with ⟨-, he⟩ | ⟨-, -, he⟩ | ⟨-, -, he⟩
      · simp only [rxLoop, hd, he]
      · simp only [rxLoop, hd, he]
      · simp only [rxLoop, hd, he]
        exact turn _ n hk.1 hk.2.1 rfl

/-- What `rx_byte` can do (41_synchronizer.md R88). -/
theorem rxByte_end (b : Byte) (s : State) : RxEnd (appendRx b s) (rxByte b s) :=
  rxLoop_end _ _ (Nat.lt_succ_self _)

end Sys2Proof.Machine
end

