-- ==== Sys2Proof/Laws/Exec.lean ====
section
/-! SUPPORT. What each operation answers, as a state: every arm of `exec` goes on, and a run of operations composes
(44_cycle.md R134). -/

namespace Sys2Proof.Machine

/-- The state that an operation leaves. -/
def execNext (i : Instr) (s : State) : State :=
  match i with
  | .ctrlNop => answerWrite s
  | .ctrlExecute => answerWrite (executeCommand s)
  | .ctrlAck => answerWrite (acknowledge s)
  | .ctrlReserved => answerWrite (setErr .reservedOp s)
  | .rdCfg0 => answerRead (cfg0Word s.cfg) s
  | .rdCfg1 => answerRead (cfg1Word s.cfg) s
  | .rdCtrl => answerRead 0#32 s
  | .rdStatus => answerRead s.statusWord s
  | .rdReq => answerRead s.req s
  | .rdTxlen => answerRead s.txlenWord s
  | .rdPolicy => answerRead s.policyWord s
  | .rdResult => answerRead s.resultWord s
  | .rdNakrsn => answerRead s.nakrsnWord s
  | .rdAttempts => answerRead s.attemptsWord s
  | .rdDeadline => answerRead s.deadlineWord s
  | .rdTxp w => readPayloadWindow s.txpByte w s
  | .rdRxp w => readPayloadWindow s.rxpByte w s
  | .wrReq d => guardedWrite (fun s => { s with req := d }) s
  | .wrTxlen d => guardedWrite (fun s => { s with txLen := d }) s
  | .wrPolicy d => guardedWrite (fun s => { s with policy := d }) s
  | .wrTxp w d =>
    if w.toNat < s.cfg.windowWords then guardedWrite (fun s => { s with txp := writeWindow s.cfg s.txp w.toNat d }) s
    else busErrorAnswer true s
  | .wrRoCfg0 => answerWrite s
  | .wrRoCfg1 => answerWrite s
  | .wrRoStatus => answerWrite s
  | .wrRoResult => answerWrite s
  | .wrRoNakrsn => answerWrite s
  | .wrRoAttempts => answerWrite s
  | .wrRoDeadline => answerWrite s
  | .wrRxp w => if w.toNat < s.cfg.windowWords then answerWrite s else busErrorAnswer true s
  | .busError hwrite _ _ => busErrorAnswer hwrite s
  | .evTxAccept => if s.phase = .tx then txAccept s else s
  | .evRxByte b => if s.phase = .rx then rxByte b s else s
  | .evChClosed => chFailIfActive .closed s
  | .evChError => chFailIfActive .ioError s
  | .evTick => if s.phase = .idle then s else tick s

/-- Every operation goes on: no arm of `exec` faults or refuses. -/
theorem exec_eq_next (i : Instr) (s : State) : exec i s = .next (execNext i s) := by
  cases i
  case evTxAccept => simp only [exec, execEvTxAccept, execNext]; cases h : s.phase <;> simp
  case evRxByte b => simp only [exec, execEvRxByte, execNext]; cases h : s.phase <;> simp
  case evTick => simp only [exec, execEvTick, execNext]; cases h : s.phase <;> simp
  case wrRxp w => simp only [exec, execWrRxp, execNext, ignoreWrite]; split <;> rfl
  all_goals rfl

/-- The state that an operation leaves is the state it answers. -/
theorem exec_next_iff (i : Instr) (s t : State) : exec i s = .next t ↔ t = execNext i s := by
  rw [exec_eq_next]
  constructor
  · intro h
    injection h with h
    exact h.symm
  · rintro rfl
    rfl

/-- The state that a run of operations leaves. -/
def execNextAll (is : List Instr) (s : State) : State := is.foldl (fun s i => execNext i s) s

theorem execAll_eq_next (is : List Instr) (s : State) : execAll is s = .next (execNextAll is s) := by
  induction is generalizing s with
  | nil => rfl
  | cons i is ih => simp only [execAll, exec_eq_next, ih]; rfl

theorem execNextAll_append (is js : List Instr) (s : State) :
    execNextAll (is ++ js) s = execNextAll js (execNextAll is s) := List.foldl_append

/-- The state that a step leaves. -/
def stepNext (s : State) : State :=
  if (nextCycle s).rst then applyReset (takeCycle s)
  else execNextAll (cycleOps s.cfg (nextCycle s)) (beginCycle (takeCycle s))

theorem step_eq_next (s : State) : step s = .next (stepNext s) := by
  unfold step runCycle stepNext
  split
  · rfl
  · exact execAll_eq_next _ _

theorem step_next_iff (s t : State) : step s = .next t ↔ t = stepNext s := by
  rw [step_eq_next]
  constructor
  · intro h
    injection h with h
    exact h.symm
  · rintro rfl
    rfl

end Sys2Proof.Machine
end

