-- ==== Sys2Proof/Laws/PerInstr.lean ====
section
/-! SUPPORT. Statements about every operation, one lemma per constructor of Instr: the encoding of an operation carries the
bits of its row of spec/opcode_table.json, `key & mask = match` (30_encoding.md R72). -/

namespace Sys2Proof.Laws.EncodeFitsTableRow

open Sys2Proof.Machine

/-- The encoding of the operation carries the bits of its row of spec/opcode_table.json. -/
def Statement (i : Instr) : Prop := (tableRow i).fits (encode i) = true

/-- A key whose address is fixed and whose data is free, under a mask that looks at the address only. -/
theorem accessKey_and_addressMask (hwrite : Bool) (a : HostAddr) (d : Word) :
    accessKey hwrite a d &&& 0xFFFFF00000000#52 = accessKey hwrite a 0#32 := by
  have hm : (0xFFFFF00000000#52) = (1#1 ++ 1#1 ++ 0x3FFFF#18 ++ 0#32 : BitVec 52) := rfl
  have ha : a &&& 0x3FFFF#18 = a := BitVec.and_allOnes
  have hb : BitVec.ofBool hwrite &&& 1#1 = BitVec.ofBool hwrite := BitVec.and_allOnes
  rw [hm]
  unfold accessKey
  rw [BitVec.and_append, BitVec.and_append, BitVec.and_append, ha, hb, BitVec.and_zero]
  rfl

/-- A key of a window, under the mask of the window rows. -/
theorem accessKey_and_windowMask (hwrite : Bool) (base : BitVec 2) (w : BitVec 14) (d : Word) :
    accessKey hwrite (windowAddr base w) d &&& 0xB000300000000#52 = accessKey hwrite (windowAddr base 0#14) 0#32 := by
  have hm : (0xB000300000000#52) = (1#1 ++ 0#1 ++ (3#2 ++ 0#14 ++ 3#2 : BitVec 18) ++ 0#32 : BitVec 52) := rfl
  have ha : base &&& 3#2 = base := BitVec.and_allOnes
  have hb : BitVec.ofBool hwrite &&& 1#1 = BitVec.ofBool hwrite := BitVec.and_allOnes
  have hz : 0#2 &&& 3#2 = 0#2 := rfl
  have hw : w &&& 0#14 = 0#14 := BitVec.and_zero
  have hd : d &&& 0#32 = 0#32 := BitVec.and_zero
  rw [hm]
  unfold accessKey windowAddr
  rw [BitVec.and_append, BitVec.and_append, BitVec.and_append, BitVec.and_append, BitVec.and_append, ha, hb, hz, hw, hd]
  rfl

theorem ctrlNop : Statement .ctrlNop := rfl

theorem ctrlExecute : Statement .ctrlExecute := rfl

theorem ctrlAck : Statement .ctrlAck := rfl

theorem ctrlReserved : Statement .ctrlReserved := rfl

theorem rdCfg0 : Statement .rdCfg0 := rfl

theorem rdCfg1 : Statement .rdCfg1 := rfl

theorem rdCtrl : Statement .rdCtrl := rfl

theorem rdStatus : Statement .rdStatus := rfl

theorem rdReq : Statement .rdReq := rfl

theorem rdTxlen : Statement .rdTxlen := rfl

theorem rdPolicy : Statement .rdPolicy := rfl

theorem rdResult : Statement .rdResult := rfl

theorem rdNakrsn : Statement .rdNakrsn := rfl

theorem rdAttempts : Statement .rdAttempts := rfl

theorem rdDeadline : Statement .rdDeadline := rfl

theorem rdTxp (w : BitVec 14) : Statement (.rdTxp w) := by
  simp only [Statement, tableRow, encode, TableRow.fits, accessKey_and_windowMask]
  decide

theorem rdRxp (w : BitVec 14) : Statement (.rdRxp w) := by
  simp only [Statement, tableRow, encode, TableRow.fits, accessKey_and_windowMask]
  decide

theorem wrReq (d : Word) : Statement (.wrReq d) := by
  simp only [Statement, tableRow, encode, encodeWrite, TableRow.fits, accessKey_and_addressMask]
  decide

theorem wrTxlen (d : BitVec 16) : Statement (.wrTxlen d) := by
  simp only [Statement, tableRow, encode, encodeWrite, TableRow.fits, accessKey_and_addressMask]
  decide

theorem wrPolicy (d : BitVec 26) : Statement (.wrPolicy d) := by
  simp only [Statement, tableRow, encode, encodeWrite, TableRow.fits, accessKey_and_addressMask]
  decide

theorem wrTxp (w : BitVec 14) (d : Word) : Statement (.wrTxp w d) := by
  simp only [Statement, tableRow, encode, TableRow.fits, accessKey_and_windowMask]
  decide

theorem wrRoCfg0 : Statement .wrRoCfg0 := rfl

theorem wrRoCfg1 : Statement .wrRoCfg1 := rfl

theorem wrRoStatus : Statement .wrRoStatus := rfl

theorem wrRoResult : Statement .wrRoResult := rfl

theorem wrRoNakrsn : Statement .wrRoNakrsn := rfl

theorem wrRoAttempts : Statement .wrRoAttempts := rfl

theorem wrRoDeadline : Statement .wrRoDeadline := rfl

theorem wrRxp (w : BitVec 14) : Statement (.wrRxp w) := by
  simp only [Statement, tableRow, encode, TableRow.fits, accessKey_and_windowMask]
  decide

theorem busError (hwrite : Bool) (haddr : HostAddr) (hsize : Nat) : Statement (.busError hwrite haddr hsize) := by
  simp [Statement, tableRow, encode, TableRow.fits]

theorem evTxAccept : Statement .evTxAccept := rfl

theorem evRxByte (b : Byte) : Statement (.evRxByte b) := by
  have h : ∀ x y : BitVec 13, (x ||| y) &&& y = y := by
    intro x y
    ext i hi
    simp +contextual
  simp only [Statement, tableRow, encode, TableRow.fits, h]
  decide

theorem evChClosed : Statement .evChClosed := rfl

theorem evChError : Statement .evChError := rfl

theorem evTick : Statement .evTick := rfl

end Sys2Proof.Laws.EncodeFitsTableRow
end

