-- ==== Sys2Proof/Tests/Slice0.lean ====
section
/-! SUPPORT. The model's own tests: the checks of WellFormed on ill-formed terms, the decoding of every constructor from a word
written out from the spec, small steps with the spec's worked values, and a witness for the hypotheses of every statement of
Certificates/Slice0/Obligations.lean. -/

namespace Sys2Proof.Tests

open Sys2Proof.Machine

/-! ### Helpers -/

/-- The state that an operation answers (every operation answers a next state). -/
def after (i : Instr) (s : State) : State :=
  match exec i s with
  | .next t => t
  | .fault _ => s
  | .refused _ => s

/-- The state after one cycle with the inputs `c`. -/
def cycleOn (c : Cycle) (s : State) : State :=
  match step { s with inputs := [c] } with
  | .next t => t
  | .fault _ => s
  | .refused _ => s

/-- Idle, with the request and the policy of the spec's traces: REQ 0x15062201, POLICY 0x01020032, a payload of two bytes
00 01 (95_test_vectors.md P1). -/
def idle : State :=
  { State.reset with req := 0x15062201#32, policy := 0x1020032#26, txLen := 2#16, txp := [(0, 0x00#8), (1, 0x01#8)] }

/-- Sending: the first attempt, after `n` bytes. -/
def sending (n : BitVec 17) : State := { idle with phase := .tx, attempts := 1#9, dl := 50#16, txIdx := n }

/-- Receiving: the frame is sent, the bytes `B` are buffered. -/
def receiving (B : List Byte) : State :=
  { idle with phase := .rx, attempts := 1#9, dl := 50#16, txIdx := 7#17, rxBuf := B }

/-- Waiting out the deadline after a closed channel. -/
def holding : State :=
  { idle with phase := .holdoff, attempts := 1#9, dl := 40#16, txIdx := 7#17, failRsn := .closed }

/-- A transaction that ended TIMEOUT after three attempts and was not acknowledged (43_host_ops.md R113). -/
def timedOut : State :=
  { idle with done := true, outcome := .timeout, reason := .deadline, attempts := 3#9 }

/-- The encoding of a key of an access of four bytes. -/
def word (key : BitVec 52) : Encoding := .hbus 4 key

/-- An operation was decoded. -/
def decodesTo (e : Encoding) (i : Instr) : Bool :=
  match decode Config.ref e with
  | .ok j => j == i
  | .error _ => false

/-! ### WellFormed refuses ill-formed terms (profile REF: WW is 64) -/

theorem test_wellFormed_rdTxp_limit :
    WellFormed Config.ref (.rdTxp 63#14) = true ∧ WellFormed Config.ref (.rdTxp 64#14) = false := by decide

theorem test_wellFormed_rdRxp_limit :
    WellFormed Config.ref (.rdRxp 63#14) = true ∧ WellFormed Config.ref (.rdRxp 64#14) = false := by decide

theorem test_wellFormed_wrTxp_limit :
    WellFormed Config.ref (.wrTxp 63#14 0#32) = true ∧ WellFormed Config.ref (.wrTxp 64#14 0#32) = false := by decide

theorem test_wellFormed_wrRxp_limit :
    WellFormed Config.ref (.wrRxp 63#14) = true ∧ WellFormed Config.ref (.wrRxp 64#14) = false := by decide

/-- A mapped register or window word is no bus error; a wrong size, a misaligned address, the first address after the last
register and the first after a window are. -/
theorem test_wellFormed_busError :
    WellFormed Config.ref (.busError false 0x00028#18 4) = false
      ∧ WellFormed Config.ref (.busError true 0x100FC#18 4) = false
      ∧ WellFormed Config.ref (.busError true 0x20000#18 4) = false
      ∧ WellFormed Config.ref (.busError true 0x00010#18 1) = true
      ∧ WellFormed Config.ref (.busError false 0x00012#18 4) = true
      ∧ WellFormed Config.ref (.busError false 0x0002C#18 4) = true
      ∧ WellFormed Config.ref (.busError false 0x10100#18 4) = true := by decide

/-! ### Decoding, words written out from 30_encoding.md R66, R68, R71 and spec/opcode_table.json

The key of an access is HWRITE in bit 51, 0 in bit 50, HADDR in bits 49:32, HWDATA in bits 31:0. -/

theorem test_decode_control :
    decodeTableWord 56 0x8000800000000 = some .ctrlNop ∧ decodeTableWord 56 0x80008FFFFFFFC = some .ctrlNop
      ∧ decodeTableWord 56 0x8000800000001 = some .ctrlExecute ∧ decodeTableWord 56 0x8000800000002 = some .ctrlAck
      ∧ decodeTableWord 56 0x8000800000003 = some .ctrlReserved := by decide

theorem test_decode_register_reads :
    decodeTableWord 56 0x0000000000000 = some .rdCfg0 ∧ decodeTableWord 56 0x0000400000000 = some .rdCfg1
      ∧ decodeTableWord 56 0x0000800000000 = some .rdCtrl ∧ decodeTableWord 56 0x0000C00000000 = some .rdStatus
      ∧ decodeTableWord 56 0x0001000000000 = some .rdReq ∧ decodeTableWord 56 0x0001400000000 = some .rdTxlen
      ∧ decodeTableWord 56 0x0001800000000 = some .rdPolicy ∧ decodeTableWord 56 0x0001C00000000 = some .rdResult
      ∧ decodeTableWord 56 0x0002000000000 = some .rdNakrsn ∧ decodeTableWord 56 0x0002400000000 = some .rdAttempts
      ∧ decodeTableWord 56 0x0002800000000 = some .rdDeadline := by decide

theorem test_decode_windows :
    decodeTableWord 56 0x1000000000000 = some (.rdTxp 0#14) ∧ decodeTableWord 56 0x100FC00000000 = some (.rdTxp 63#14)
      ∧ decodeTableWord 56 0x2000400000000 = some (.rdRxp 1#14)
      ∧ decodeTableWord 56 0x9000800000100 = some (.wrTxp 2#14 0x100#32)
      ∧ decodeTableWord 56 0xA000012345678 = some (.wrRxp 0#14) := by decide

theorem test_decode_register_writes :
    decodeTableWord 56 0x8001015062201 = some (.wrReq 0x15062201#32)
      ∧ decodeTableWord 56 0x80014FFFF0002 = some (.wrTxlen 2#16)
      ∧ decodeTableWord 56 0x80018FD020032 = some (.wrPolicy 0x1020032#26)
      ∧ decodeTableWord 56 0x8000000000000 = some .wrRoCfg0 ∧ decodeTableWord 56 0x8000400000000 = some .wrRoCfg1
      ∧ decodeTableWord 56 0x8000CFFFFFFFF = some .wrRoStatus ∧ decodeTableWord 56 0x8001C00000000 = some .wrRoResult
      ∧ decodeTableWord 56 0x8002000000000 = some .wrRoNakrsn ∧ decodeTableWord 56 0x8002400000000 = some .wrRoAttempts
      ∧ decodeTableWord 56 0x8002800000000 = some .wrRoDeadline := by decide

/-- Outside the map, misaligned, in the second half of the space (bit 17 set), and of one byte. -/
theorem test_decode_bus_errors :
    decodeTableWord 56 0x0002C00000000 = some (.busError false 0x0002C#18 4)
      ∧ decodeTableWord 56 0x8001200000000 = some (.busError true 0x00012#18 4)
      ∧ decodeTableWord 56 0x1010000000000 = some (.busError false 0x10100#18 4)
      ∧ decodeTableWord 56 0x3000000000000 = some (.busError false 0x30000#18 4)
      ∧ decodesTo (.hbus 1 0x8001000000000#52) (.busError true 0x00010#18 1) = true := by decide

/-- The input vector: tick 12, ch_err 11, ch_closed 10, rx_data 9:2, rx_valid 1, tx_ready 0. -/
theorem test_decode_events :
    decodeTableWord 16 0x0001 = some .evTxAccept ∧ decodeTableWord 16 0x018E = some (.evRxByte 0x63#8)
      ∧ decodeTableWord 16 0x0400 = some .evChClosed ∧ decodeTableWord 16 0x0800 = some .evChError
      ∧ decodeTableWord 16 0x1000 = some .evTick := by decide

/-- Bit 18 of A set, no event, two events: no operation, each with its name. -/
theorem test_decode_rejects :
    decode Config.ref (word 0x4000000000000#52) = .error .reservedBitOfA
      ∧ decode Config.ref (.iv 0x0000#13) = .error .noEvent
      ∧ decode Config.ref (.iv 0x1001#13) = .error .severalEvents := ⟨rfl, rfl, rfl⟩

/-! ### Register reads (the examples of 43_host_ops.md R110 to R122) -/

theorem test_rdCfg0 :
    (after .rdCfg0 State.reset).out.hrdata = 0x00010205#32
      ∧ (after .rdCfg0 { State.reset with cfg := Config.gnp }).out.hrdata = 0x00010465#32 := by decide

theorem test_rdCfg1 : (after .rdCfg1 State.reset).out.hrdata = 0x000000FF#32 := by decide

theorem test_rdCtrl : (after .rdCtrl (after .ctrlExecute idle)).out.hrdata = 0#32 := by decide

theorem test_rdStatus :
    (after .rdStatus timedOut).out.hrdata = 0x00060402#32
      ∧ (after .rdStatus (after .ctrlExecute idle)).out.hrdata = 0x00001001#32 := by decide

theorem test_rdReq : (after .rdReq (after (.wrReq 0x15062201#32) State.reset)).out.hrdata = 0x15062201#32 := by decide

theorem test_rdTxlen : (after .rdTxlen (after (.wrTxlen 2#16) State.reset)).out.hrdata = 0x00000002#32 := by decide

theorem test_rdPolicy : (after .rdPolicy State.reset).out.hrdata = 0x03000000#32 := by decide

theorem test_rdResult :
    (after .rdResult (after (.evRxByte 0x63#8) (receiving [0x01#8, 0x01#8, 0x06#8, 0x02#8, 0xAB#8, 0xCD#8]))).out.hrdata
      = 0x00020601#32 := by decide

theorem test_rdNakrsn :
    (after .rdNakrsn (after (.evRxByte 0x12#8) (receiving [0x01#8, 0x01#8, 0x15#8, 0x01#8, 0x07#8]))).out.hrdata
      = 0x00000107#32 := by decide

theorem test_rdAttempts : (after .rdAttempts timedOut).out.hrdata = 3#32 := by decide

theorem test_rdDeadline : (after .rdDeadline (after .ctrlExecute idle)).out.hrdata = 50#32 := by decide

theorem test_rdTxp :
    (after (.rdTxp 0#14) (after (.wrTxp 0#14 0x00000100#32) State.reset)).out.hrdata = 0x00000100#32
      ∧ (after (.rdTxp 64#14) State.reset).out.busErr = true := by decide

theorem test_rdRxp :
    (after (.rdRxp 0#14) { State.reset with rxp := [(0, 0xAB#8), (1, 0xCD#8), (2, 0x01#8), (3, 0x02#8)] }).out.hrdata
      = 0x0201CDAB#32 := by decide

/-! ### Register writes (the examples of 43_host_ops.md R123 to R128, 60_exceptions.md R145) -/

theorem test_wrReq :
    (after (.wrReq 0x15062201#32) State.reset).reqNakCmd = 0x15#8
      ∧ (after (.wrReq 0x15062201#32) State.reset).reqAddr = 0x01#8 := by decide

theorem test_wrReq_busy :
    (after (.wrReq 0#32) (sending 0#17)).req = 0x15062201#32
      ∧ (after (.wrReq 0#32) (sending 0#17)).errCode = .writeWhileBusy := by decide

theorem test_wrTxlen :
    (after .ctrlExecute (after (.wrTxlen 0x0100#16) idle)).errCode = .payloadTooLarge := by decide

theorem test_wrPolicy :
    (after (.wrPolicy 0x1020032#26) State.reset).timeout = 50#16
      ∧ (after (.wrPolicy 0x1020032#26) State.reset).maxRetries = 2#8
      ∧ (after (.wrPolicy 0x1020032#26) State.reset).retryOnTimeout = true
      ∧ (after (.wrPolicy 0x1020032#26) State.reset).retryOnChannel = false := by decide

/-- Byte 3 of word 63 is dropped under REF (43_host_ops.md R126). -/
theorem test_wrTxp_last_word :
    (after (.wrTxp 63#14 0x04030201#32) State.reset).txp = [(252, 0x01#8), (253, 0x02#8), (254, 0x03#8)] := by decide

theorem test_wrRo :
    ∀ i ∈ [Instr.wrRoCfg0, .wrRoCfg1, .wrRoStatus, .wrRoResult, .wrRoNakrsn, .wrRoAttempts, .wrRoDeadline],
      after i timedOut = timedOut := by decide

theorem test_wrRxp :
    after (.wrRxp 0#14) timedOut = timedOut ∧ (after (.wrRxp 64#14) timedOut).out.busErr = true := by decide

theorem test_busError :
    (after (.busError false 0x0002C#18 4) timedOut).out.busErr = true
      ∧ (after (.busError false 0x0002C#18 4) timedOut).out.hrdata = 0#32 := by decide

/-! ### Control commands (43_host_ops.md R129 to R132) -/

theorem test_ctrlNop : after .ctrlNop timedOut = timedOut := by decide

theorem test_ctrlExecute_right_after_reset : (after .ctrlExecute State.reset).errCode = .badTimeout := by decide

theorem test_ctrlExecute_accepted :
    (after .ctrlExecute timedOut).statusWord = 0x00001001#32 ∧ (after .ctrlExecute timedOut).attempts = 1#9 := by decide

theorem test_ctrlAck : (after .ctrlAck timedOut).statusWord = 0x00060400#32 := by decide

theorem test_ctrlReserved : (after .ctrlReserved State.reset).statusWord = 0x00000054#32 := by decide

/-! ### Events (42_sequencer.md, 41_synchronizer.md) -/

/-- The byte of index 6 is the checksum 20, and its acceptance enters RX (42_sequencer.md R94, 95_test_vectors.md P1). -/
theorem test_evTxAccept_last_byte :
    (cycleOutputs (sending 6#17)).txData = 0x20#8 ∧ (after .evTxAccept (sending 6#17)).phase = .rx
      ∧ (after .evTxAccept (sending 6#17)).txIdx = 7#17 ∧ (after .evTxAccept (sending 5#17)).phase = .tx := by decide

/-- The expected response of the worked example of 41_synchronizer.md R88. -/
theorem test_evRxByte_success :
    (after (.evRxByte 0x63#8) (receiving [0x01#8, 0x01#8, 0x06#8, 0x02#8, 0xAB#8, 0xCD#8])).outcome = .success
      ∧ (after (.evRxByte 0x63#8) (receiving [0x01#8, 0x01#8, 0x06#8, 0x02#8, 0xAB#8, 0xCD#8])).rxp
          = [(0, 0xAB#8), (1, 0xCD#8)] := by decide

/-- The corrupt frame of 41_synchronizer.md R91: the rescan keeps 01 20. -/
theorem test_evRxByte_corrupt :
    (after (.evRxByte 0x20#8) (receiving [0x01#8, 0x05#8, 0x22#8, 0x02#8, 0x00#8, 0x01#8])).rxBuf = [0x01#8, 0x20#8]
      ∧ (after (.evRxByte 0x20#8) (receiving [0x01#8, 0x05#8, 0x22#8, 0x02#8, 0x00#8, 0x01#8])).invRsn = .checksum := by
  decide

theorem test_evChClosed :
    (after .evChClosed (receiving [0x01#8])).failRsn = .closed ∧ (after .evChClosed (receiving [0x01#8])).rxBuf = [] := by
  decide

/-- The example of 42_sequencer.md R100. -/
theorem test_evChError :
    (after .evChError { receiving [] with dl := 40#16 }).phase = .holdoff
      ∧ (after .evChError { receiving [] with dl := 40#16 }).dl = 40#16 := by decide

theorem test_evTick_counts : (after .evTick (sending 0#17)).dl = 49#16 := by decide

/-- Three timeouts of a policy of two retries (42_sequencer.md R99). -/
theorem test_evTick_expires :
    (after .evTick { sending 3#17 with dl := 1#16, attempts := 2#9 }).attempts = 3#9
      ∧ (after .evTick { sending 3#17 with dl := 1#16, attempts := 3#9 }).outcome = .timeout := by decide

/-! ### Cycles (44_cycle.md R134, R137; 30_encoding.md R74) -/

/-- Both failure lines in one cycle record CLOSED (42_sequencer.md R100). -/
theorem test_cycle_closed_and_error :
    (cycleOn { Cycle.quiet with iv := 0x0C00#13 } (sending 0#17)).failRsn = .closed := by decide

/-- A read in the cycle of an event answers the state before it; an ACK in the cycle that ends the transaction clears its
DONE (43_host_ops.md R108, R131). -/
theorem test_cycle_same_cycle_access :
    (cycleOn { rst := false, iv := 0x1000#13, access := some ⟨false, 0x028#18, 4, 0#32⟩ } (sending 0#17)).out.hrdata = 50#32
      ∧ (cycleOn { rst := false, iv := 0x1000#13, access := some ⟨true, 0x008#18, 4, 2#32⟩ }
          { holding with dl := 1#16 }).done = false
      ∧ (cycleOn { rst := false, iv := 0x1000#13, access := some ⟨true, 0x008#18, 4, 2#32⟩ }
          { holding with dl := 1#16 }).outcome = .channel := by decide

/-- The cycle of a line of the script notation. -/
theorem test_script_line :
    cycleOfLine [.rx 0x63#8, .tick, .wr 0x008#18 2#32]
      = some { rst := false, iv := 0x118E#13, access := some ⟨true, 0x008#18, 4, 2#32⟩ }
      ∧ cycleOfLine [.rd 0x00C#18, .wr 0x008#18 2#32] = none ∧ cycleOfLine [.rx 0x01#8, .rx 0x02#8] = none := by decide

/-- A key with bit 18 of A set is no operation and puts none before the inputs (log 13). -/
theorem test_reserved_bit_of_A :
    decodeTableWord 56 0x4000800000001 = none ∧ (State.reset.withFetchWord 56 0x4000800000001).inputs = [Cycle.quiet] := by
  decide

/-! ### Witnesses: states and operands that meet the hypotheses of the statements -/

/-- One cycle of a silent channel, with a tick (42_sequencer.md R105). -/
def silentTick : Cycle := { Cycle.quiet with iv := 0x1001#13 }

/-- The state of program P2 after its EXECUTE: TIMEOUT 3, MAX_RETRIES 2, RETRY_ON_TIMEOUT (95_test_vectors.md P2), with the
inputs `cs` to come. -/
def p2Attempt (cs : List Cycle) : State :=
  { idle with phase := .tx, attempts := 1#9, dl := 3#16, policy := 0x1020003#26, inputs := cs }

/-- A cycle in which the channel accepts a byte, a cycle with a tick, and a cycle with a read (30_encoding.md R74). -/
def txrCycle : Cycle := { Cycle.quiet with iv := 0x0001#13 }

def tickCycle : Cycle := { Cycle.quiet with iv := 0x1000#13 }

def readCycle (a : HostAddr) : Cycle := { Cycle.quiet with access := some ⟨false, a, 4, 0#32⟩ }

/-- The cycles 5 to 35 of program P2: eight of its nine ticks. -/
def p2Cycles : List Cycle :=
  List.replicate 7 txrCycle ++ List.replicate 3 tickCycle ++ [readCycle 0x024#18] ++ List.replicate 7 txrCycle
    ++ List.replicate 3 tickCycle ++ List.replicate 7 txrCycle ++ [tickCycle, readCycle 0x028#18, tickCycle]

/-- The cycles 37 to 39 of program P2. -/
def p2Rest : List Cycle := [readCycle 0x00C#18, readCycle 0x024#18, readCycle 0x01C#18]

theorem witness_decode_wellFormed :
    WellFormed Config.ref (.wrTxp 63#14 5#32) = true ∧ WellFormed Config.ref (.busError true 0x3FFFF#18 4) = true
      ∧ WellFormed Config.ref (.busError false 0x00000#18 0) = true
      ∧ decodesTo (word 0x900FC00000005#52) (.wrTxp 63#14 5#32) = true
      ∧ decodesTo (.iv 0x03FE#13) (.evRxByte 0xFF#8) = true := by decide

/-- The clauses at the edges: 0x28 and 0x2C, the last word of a window and the first address after it. -/
theorem witness_busError_edges :
    decodeAccess Config.ref ⟨false, 0x0002C#18, 4, 0#32⟩ = .busError false 0x0002C#18 4
      ∧ decodeAccess Config.ref ⟨false, 0x00028#18, 4, 0#32⟩ = .rdDeadline
      ∧ decodeAccess Config.ref ⟨false, 0x200FC#18, 4, 0#32⟩ = .rdRxp 63#14
      ∧ decodeAccess Config.ref ⟨false, 0x20100#18, 4, 0#32⟩ = .busError false 0x20100#18 4
      ∧ decodeAccess Config.ref ⟨false, 0x00010#18, 2, 0#32⟩ = .busError false 0x00010#18 2 := by decide

/-- A state whose next cycle carries one operation, and one without inputs. -/
theorem witness_step_runs :
    ({ sending 0#17 with inputs := [cycleOfEncoding (word 0x0000C00000000#52)] } : State).inputs
        = cycleOfEncoding (word 0x0000C00000000#52) :: []
      ∧ decode (sending 0#17).cfg (word 0x0000C00000000#52) = .ok .rdStatus ∧ State.reset.inputs = [] := ⟨rfl, rfl, rfl⟩

/-- A cycle without reset, a quiet cycle and a reset cycle; every one has a next state. -/
theorem witness_cycles (c : Cycle) (hc : c = silentTick ∨ c = Cycle.quiet) :
    c.rst = false ∧ ({ sending 0#17 with inputs := [c] } : State).inputs = c :: []
      ∧ ∃ t, step { sending 0#17 with inputs := [c] } = .next t := by
  refine ⟨?_, rfl, ⟨_, step_eq_next _⟩⟩
  rcases hc with rfl | rfl <;> rfl

theorem witness_reset_cycle :
    ({ Cycle.quiet with rst := true } : Cycle).rst = true
      ∧ ({ receiving [0x01#8] with inputs := [{ Cycle.quiet with rst := true }] } : State).inputs
          = { Cycle.quiet with rst := true } :: [] := ⟨rfl, rfl⟩

/-- The last word of a window, the word after it, and in the last word the byte after MAX_PAYLOAD. -/
theorem witness_windows :
    (63#14 : BitVec 14).toNat < idle.cfg.windowWords ∧ idle.cfg.windowWords ≤ (64#14 : BitVec 14).toNat
      ∧ 4 * (63#14 : BitVec 14).toNat + 2 < idle.cfg.maxPayload
      ∧ ¬ 4 * (63#14 : BitVec 14).toNat + 3 < idle.cfg.maxPayload ∧ idle.phase = .idle
      ∧ (sending 0#17).phase ≠ .idle := by decide

theorem witness_host_read :
    ∃ t u,
      ({ silentTick with access := some ⟨false, 0x00C#18, 4, 0#32⟩ } : Cycle).access = some ⟨false, 0x00C#18, 4, 0#32⟩
        ∧ step { sending 6#17 with inputs := [{ silentTick with access := some ⟨false, 0x00C#18, 4, 0#32⟩ }] } = .next t
        ∧ step { sending 6#17 with inputs := [{ silentTick with access := none }] } = .next u :=
  ⟨_, _, rfl, step_eq_next _, step_eq_next _⟩

theorem witness_ctrl_data : (0xFFFFFFFC#32 : Word).toNat % 4 = 0 ∧ (0xFFFFFFFF#32 : Word).toNat % 4 = 3 := by decide

/-- An accepted EXECUTE with the longest payload, and the three refusals. -/
theorem witness_execute :
    (idle.phase = .idle ∧ { idle with txLen := 255#16 }.txLen.toNat ≤ idle.cfg.maxPayload ∧ idle.timeout ≠ 0#16)
      ∧ (sending 0#17).phase ≠ .idle ∧ idle.cfg.maxPayload < { idle with txLen := 256#16 }.txLen.toNat
      ∧ (State.reset.phase = .idle ∧ State.reset.txLen.toNat ≤ State.reset.cfg.maxPayload
        ∧ State.reset.timeout = 0#16) := by decide

theorem witness_canonical_memory :
    Memory.wf [(0, 0xAB#8), (254, 0xCD#8)] = true ∧ Memory.wf [(254, 0xCD#8), (0, 0xAB#8)] = false
      ∧ (∀ i, Memory.read? [(0, 0xAB#8), (254, 0xCD#8)] i
          = Memory.read? (Memory.write (Memory.write [] 254 0xCD#8) 0 0xAB#8) i) := by
  refine ⟨by decide, by decide, fun i => rfl⟩

/-- The longest payload of REF. -/
theorem witness_payload : (List.replicate 255 0x01#8).length ≤ Config.ref.maxPayload := by
  rw [List.length_replicate]
  decide

/-- The bytes of a two-byte length and a two-byte checksum: 00 02 and 00 26 under BE (40_frame_codec.md R77), 02 00 and 26 00
under LE (30_encoding.md R61, R62, 20_memory.md R47). -/
theorem test_two_byte_fields :
    encodeFrame ⟨.one 0x01#8, .two 300#16, .be, .sum16, .be⟩ 0x01#8 0x22#8 [0x00#8, 0x01#8]
        = [0x01#8, 0x01#8, 0x22#8, 0x00#8, 0x02#8, 0x00#8, 0x01#8, 0x00#8, 0x26#8]
      ∧ encodeFrame ⟨.one 0x01#8, .two 300#16, .le, .sum16, .le⟩ 0x01#8 0x22#8 [0x00#8, 0x01#8]
        = [0x01#8, 0x01#8, 0x22#8, 0x02#8, 0x00#8, 0x00#8, 0x01#8, 0x26#8, 0x00#8] := by decide

/-- The codes of the enumerations in STATUS (10_state.md R22, R24 to R26, R30). -/
theorem test_status_codes :
    (after .rdStatus { holding with errCode := .execWhileBusy, outcome := .channel, reason := .ioError }).out.hrdata
      = 0x00053531#32 := by decide

/-- The example of 40_frame_codec.md R82, with a byte of the next frame behind it. -/
theorem witness_decoded_frame :
    decodeFrame Config.ref [0x01#8, 0x01#8, 0x22#8, 0x02#8, 0x00#8, 0x01#8, 0x20#8, 0x01#8]
      = .ok ⟨0x01#8, 0x22#8, [0x00#8, 0x01#8]⟩ 7 := by decide

/-- A discard up to the next marker (40_frame_codec.md R82), and one of the whole buffer. -/
theorem witness_corrupt :
    decodeFrame Config.ref [0x55#8, 0x01#8, 0x01#8] = .corrupt .noStart 1
      ∧ decodeFrame Config.ref [0x55#8, 0x02#8] = .corrupt .noStart 2 := by decide

/-- Every clause of the single-bit statement on the frame of the example of 40_frame_codec.md R85, of eight bytes with its
length at index 3: the edges of the index ranges, a length above MAX_PAYLOAD (in a dialect of at most four bytes), a longer
one, and a shorter one whose checksum happens to match. -/
theorem witness_single_bit :
    encodeFrame Config.ref 0x01#8 0x22#8 [0x00#8, 0x00#8, 0x21#8]
        = [0x01#8, 0x01#8, 0x22#8, 0x03#8, 0x00#8, 0x00#8, 0x21#8, 0x01#8]
      ∧ Config.ref.startLen = 1 ∧ Config.ref.hdrLen = 4
      ∧ decodeFrame Config.ref (flipBit (encodeFrame Config.ref 0x01#8 0x22#8 [0x00#8, 0x00#8, 0x21#8]) 3 0)
          = .ok ⟨0x01#8, 0x22#8, [0x00#8, 0x00#8]⟩ 7
      ∧ lengthField Config.ref (flipBit (encodeFrame Config.ref 0x01#8 0x22#8 [0x00#8, 0x00#8, 0x21#8]) 3 2) = 7
      ∧ lengthField { Config.ref with len := .one 4#8 }
          (flipBit (encodeFrame { Config.ref with len := .one 4#8 } 0x01#8 0x22#8 [0x00#8, 0x00#8, 0x21#8]) 3 7) = 131 := by
  decide

theorem witness_phases :
    (receiving []).phase = .rx ∧ idle.phase ≠ .rx ∧ (sending 0#17).phase ≠ .rx ∧ holding.phase ≠ .rx
      ∧ holding.phase = .holdoff ∧ (sending 0#17).phase = .tx := by decide

/-- A byte that completes the expected response (41_synchronizer.md R88). -/
theorem witness_response :
    (receiving [0x01#8, 0x01#8, 0x06#8, 0x02#8, 0xAB#8, 0xCD#8]).phase = .rx
      ∧ decodeFrame (receiving []).cfg ((receiving [0x01#8, 0x01#8, 0x06#8, 0x02#8, 0xAB#8, 0xCD#8]).rxBuf ++ [0x63#8])
        = .ok ⟨0x01#8, 0x06#8, [0xAB#8, 0xCD#8]⟩ 7
      ∧ 0x06#8 = (receiving []).reqRspCmd ∧ 0x06#8 ≠ (receiving []).reqNakCmd := by decide

/-- A byte that completes a NAK frame (42_sequencer.md R95), with a reason and without. -/
theorem witness_nak :
    (receiving [0x01#8, 0x01#8, 0x15#8, 0x01#8, 0x07#8]).phase = .rx
      ∧ decodeFrame (receiving []).cfg ((receiving [0x01#8, 0x01#8, 0x15#8, 0x01#8, 0x07#8]).rxBuf ++ [0x12#8])
        = .ok ⟨0x01#8, 0x15#8, [0x07#8]⟩ 6
      ∧ decodeFrame (receiving []).cfg ((receiving [0x01#8, 0x01#8, 0x15#8, 0x00#8]).rxBuf ++ [0x14#8])
        = .ok ⟨0x01#8, 0x15#8, []⟩ 5
      ∧ 0x15#8 = (receiving []).reqNakCmd := by decide

/-- The garbage of 41_synchronizer.md R91 before a response of the request's expected command, and garbage with a false header:
01 05 06 00 7F declares a frame without payload and fails its checksum, which is 03. -/
theorem witness_resynchronization :
    (receiving []).phase = .rx ∧ (receiving []).rxBuf = [] ∧ [0xAB#8, 0xCD#8].length ≤ (receiving []).cfg.maxPayload
      ∧ 0x06#8 = (receiving []).reqRspCmd
      ∧ (∀ i, i < [0x55#8, 0xAA#8].length →
          plausible (receiving []).cfg ([0x55#8, 0xAA#8] ++ encodeFrame (receiving []).cfg 0x01#8 0x06#8 [0xAB#8, 0xCD#8]) i
            = false)
      ∧ plausible Config.ref
          ([0x01#8, 0x05#8, 0x06#8, 0x00#8, 0x7F#8] ++ encodeFrame Config.ref 0x01#8 0x06#8 [0xAB#8, 0xCD#8]) 0 = true
      ∧ decodeFrame Config.ref
          (([0x01#8, 0x05#8, 0x06#8, 0x00#8, 0x7F#8] ++ encodeFrame Config.ref 0x01#8 0x06#8 [0xAB#8, 0xCD#8]).drop 0)
            = .corrupt .checksum 5
      ∧ ∀ i, i < 5 → 1 ≤ i →
          plausible Config.ref
            ([0x01#8, 0x05#8, 0x06#8, 0x00#8, 0x7F#8] ++ encodeFrame Config.ref 0x01#8 0x06#8 [0xAB#8, 0xCD#8]) i = false := by
  decide

/-- A false header that declares 255 payload bytes, before a whole frame. -/
theorem witness_incomplete :
    decodeFrame (receiving []).cfg
      ([0x01#8, 0x05#8, 0x06#8, 0xFF#8] ++ encodeFrame Config.ref 0x01#8 0x06#8 [0xAB#8, 0xCD#8]) = .incomplete := by decide

theorem witness_tx_accept :
    (sending 6#17).txIdx.toNat + 1 = (sending 6#17).cfg.frameLen (sending 6#17).txLen.toNat
      ∧ (sending 6#17).txLen.toNat ≤ (sending 6#17).cfg.maxPayload := by decide

/-- A tick that only counts, an expiry with a retry, and one without. -/
theorem witness_ticks :
    1 < { holding with dl := 2#16 }.dl.toNat
      ∧ mayRetry { sending 0#17 with dl := 1#16, attempts := 2#9 }
          (attemptFailure { sending 0#17 with dl := 1#16, attempts := 2#9 }).1
      ∧ ¬ mayRetry { sending 0#17 with dl := 1#16, attempts := 3#9 }
          (attemptFailure { sending 0#17 with dl := 1#16, attempts := 3#9 }).1
      ∧ ¬ mayRetry { holding with dl := 1#16 } (attemptFailure { holding with dl := 1#16 }).1 := by
  unfold mayRetry
  decide

/-- Every operation answers a next state, so a premise that one does can be met in every state, busy ones among them. -/
theorem witness_exec_next :
    { sending 0#17 with dl := 1#16 }.phase ≠ .idle
      ∧ ∃ t, exec .evTick { sending 0#17 with dl := 1#16 } = .next t := ⟨by decide, _, exec_eq_next _ _⟩

/-- Each flag is set and cleared by some operation. -/
theorem witness_flags :
    ((sending 0#17).done = false ∧ (after .evTick { sending 0#17 with dl := 1#16, attempts := 3#9 }).done = true)
      ∧ (timedOut.done = true ∧ (after .ctrlAck timedOut).done = false)
      ∧ ((after .ctrlReserved idle).err = true ∧ (after .ctrlAck (after .ctrlReserved idle)).err = false)
      ∧ (idle.err = false ∧ (after .ctrlExecute { idle with txLen := 256#16 }).err = true)
      ∧ ((receiving []).invSeen = false
        ∧ (after (.evRxByte 0x20#8) (receiving [0x01#8, 0x05#8, 0x22#8, 0x02#8, 0x00#8, 0x01#8])).invSeen = true)
      ∧ (after .evTick { receiving [] with invSeen := true, invRsn := .length, dl := 1#16 }).invSeen = false := by
  decide

theorem witness_outcome_stays :
    timedOut.phase = .idle ∧ (after .ctrlAck timedOut).phase = .idle
      ∧ exec .ctrlAck timedOut = .next (after .ctrlAck timedOut) := ⟨rfl, rfl, rfl⟩

/-- A cycle with a terminal byte, both failure lines and a tick, in the last tick of the attempt. -/
def terminalCycle : Cycle := { Cycle.quiet with iv := 0x1D8E#13 }

/-- A block in the last tick of an attempt, one byte before the end of the response. -/
def lastTick : State :=
  { receiving [0x01#8, 0x01#8, 0x06#8, 0x02#8, 0xAB#8, 0xCD#8] with dl := 1#16, inputs := [terminalCycle] }

theorem witness_terminal_cycle :
    lastTick.inputs = terminalCycle :: [] ∧ terminalCycle.rst = false ∧ terminalCycle.access = none
      ∧ terminalCycle.rxValid = true ∧ terminalCycle.chClosed = true ∧ terminalCycle.isTick = true ∧ lastTick.phase = .rx
      ∧ decodeFrame lastTick.cfg (lastTick.rxBuf ++ [terminalCycle.rxData]) = .ok ⟨0x01#8, 0x06#8, [0xAB#8, 0xCD#8]⟩ 7
      ∧ 0x06#8 = lastTick.reqRspCmd := by decide

/-- The invariant holds in the middle of a transaction, whatever is to come. -/
theorem witness_invariant (cs : List Cycle) : Inv (p2Attempt cs) where
  memories := ⟨rfl, rfl, by
    intro c hc
    have h : c = (0, 0x00#8) ∨ c = (1, 0x01#8) := by simpa [p2Attempt, idle] using hc
    rcases h with rfl | rfl
    · exact (by decide : 0 < 255)
    · exact (by decide : 1 < 255), fun c hc => nomatch hc⟩
  idle := by intro h; cases h
  busy := fun _ =>
    ⟨rfl, rfl, (by decide : 2 ≤ 255), (by decide : 0 < 3),
      (by decide : (3#16).toNat ≤ ((0x1020003#26).extractLsb' 0 16).toNat), (by decide : 0 < 1),
      (by decide : (1#9).toNat ≤ ((0x1020003#26).extractLsb' 16 8).toNat + 1)⟩
  tx := fun _ => ⟨(by decide : 0 < 7), rfl, rfl, rfl⟩
  rx := by intro h; cases h
  holdoff := by intro h; cases h
  result :=
    ⟨rfl, (fun h => nomatch h), fun _ _ => ⟨rfl, rfl, rfl⟩, fun _ => rfl, fun _ => rfl, (by decide : 0 ≤ 255),
      (by decide : 1 ≤ 256)⟩
  err := ⟨fun _ => rfl, fun _ => rfl⟩
  marks := rfl

theorem witness_invariant_step :
    Inv (p2Attempt [silentTick]) ∧ ∃ t, step (p2Attempt [silentTick]) = .next t :=
  ⟨witness_invariant _, _, step_eq_next _⟩

theorem startsNothing_of_read (a : HostAddr) (h : decodeAccess Config.ref ⟨false, a, 4, 0#32⟩ ≠ .ctrlExecute) :
    startsNothing Config.ref (readCycle a) := ⟨rfl, fun b hb => by cases hb; exact h⟩

/-- Program P2: its last tick uses up the budget of three attempts of three ticks. A cycle of an EXECUTE that is refused may
stand among the cycles before it. -/
theorem witness_transaction_ends :
    Inv (p2Attempt (p2Cycles ++ tickCycle :: p2Rest)) ∧ (p2Attempt (p2Cycles ++ tickCycle :: p2Rest)).phase ≠ .idle
      ∧ (∀ c ∈ (p2Attempt (p2Cycles ++ tickCycle :: p2Rest)).inputs, c.rst = false)
      ∧ tickBudget (p2Attempt (p2Cycles ++ tickCycle :: p2Rest))
          ≤ tickCount (p2Attempt (p2Cycles ++ tickCycle :: p2Rest)).inputs
      ∧ startsNothing Config.ref tickCycle :=
  ⟨witness_invariant _, by decide, by decide, by decide, rfl, by intro a h; cases h⟩

/-- Program P2 meets the premises of the retry budget, with the clause of the tick that uses it up. -/
theorem witness_retry_budget :
    Inv (p2Attempt (p2Cycles ++ tickCycle :: p2Rest)) ∧ (p2Attempt (p2Cycles ++ tickCycle :: p2Rest)).phase = .tx
      ∧ (p2Attempt (p2Cycles ++ tickCycle :: p2Rest)).attempts = 1#9
      ∧ (p2Attempt (p2Cycles ++ tickCycle :: p2Rest)).dl = (p2Attempt (p2Cycles ++ tickCycle :: p2Rest)).timeout
      ∧ (p2Attempt (p2Cycles ++ tickCycle :: p2Rest)).retryOnTimeout = true
      ∧ (∀ c ∈ (p2Attempt (p2Cycles ++ tickCycle :: p2Rest)).inputs,
          c.rst = false ∧ c.rxValid = false ∧ c.chClosed = false ∧ c.chErr = false)
      ∧ tickCount p2Cycles + 1 = tickBudget (p2Attempt (p2Cycles ++ tickCycle :: p2Rest)) ∧ tickCycle.isTick = true
      ∧ ∀ d ∈ tickCycle :: p2Rest, startsNothing Config.ref d := by
  refine ⟨witness_invariant _, by decide, by decide, by decide, by decide, by decide, by decide, by decide, ?_⟩
  intro d hd
  simp only [p2Rest, List.mem_cons, List.not_mem_nil, or_false] at hd
  rcases hd with rfl | rfl | rfl | rfl
  · exact ⟨rfl, by intro a h; cases h⟩
  all_goals exact startsNothing_of_read _ (by decide)

/-- The other clause, one tick before the budget is used up, with a refused EXECUTE among the cycles. -/
theorem witness_retry_budget_left :
    Inv (p2Attempt ({ tickCycle with access := some ⟨true, 0x008#18, 4, 1#32⟩ } :: List.replicate 7 silentTick))
      ∧ (∀ c ∈ ({ tickCycle with access := some ⟨true, 0x008#18, 4, 1#32⟩ } :: List.replicate 7 silentTick : List Cycle),
          c.rst = false ∧ c.rxValid = false ∧ c.chClosed = false ∧ c.chErr = false)
      ∧ tickCount ({ tickCycle with access := some ⟨true, 0x008#18, 4, 1#32⟩ } :: List.replicate 7 silentTick)
          < tickBudget (p2Attempt []) :=
  ⟨witness_invariant _, by decide, by decide⟩

theorem witness_raw_config :
    buildConfig ⟨2, 0xAA#8, 0x55#8, 2, 1, 3, 1, 65535⟩ = some ⟨.two 0xAA#8 0x55#8, .two 0xFFFF#16, .le, .crc16, .le⟩
      ∧ buildConfig ⟨1, 0x01#8, 0#8, 1, 0, 0, 0, 256⟩ = none := by decide

end Sys2Proof.Tests
end

section
/-! PROOFS. What a step keeps of the block: the dialect, and the inputs behind those of the cycle it takes (00_scope.md R8,
60_exceptions.md R148). -/

namespace Sys2Proof.Machine

/-- The state `t` belongs to the same block as `s`, with the same inputs still to come. -/
structure SameBlock (s t : State) : Prop where
  cfg : t.cfg = s.cfg
  inputs : t.inputs = s.inputs

theorem SameBlock.refl (s : State) : SameBlock s s := ⟨rfl, rfl⟩

theorem SameBlock.trans {s t u : State} (h : SameBlock s t) (h' : SameBlock t u) : SameBlock s u :=
  ⟨h'.cfg.trans h.cfg, h'.inputs.trans h.inputs⟩

theorem guardedWrite_sameBlock (write : State → State) (s : State) (h : SameBlock s (write s)) :
    SameBlock s (guardedWrite write s) := by
  rcases guardedWrite_cases write s with ⟨-, he⟩ | ⟨-, he⟩ <;> rw [he]
  · exact ⟨rfl, rfl⟩
  · exact ⟨h.cfg, h.inputs⟩

theorem executeCommand_sameBlock (s : State) : SameBlock s (executeCommand s) := by
  rcases executeCommand_cases s with ⟨-, he⟩ | ⟨-, -, he⟩ | ⟨-, -, -, he⟩ | ⟨-, -, -, he⟩ <;> rw [he]
  all_goals exact ⟨rfl, rfl⟩

theorem chFailIfActive_sameBlock (r : Reason) (s : State) : SameBlock s (chFailIfActive r s) := by
  rcases chFailIfActive_cases r s with ⟨-, he⟩ | ⟨-, he⟩ <;> rw [he]
  all_goals exact ⟨rfl, rfl⟩

theorem tick_sameBlock (s : State) (h : s.phase ≠ .idle) : SameBlock s (tick s) := by
  rcases tick_cases s h with ⟨-, he⟩ | ⟨-, -, he⟩ | ⟨-, -, he⟩ <;> rw [he]
  all_goals exact ⟨rfl, rfl⟩

theorem RxEnd.sameBlock {s t : State} (h : RxEnd s t) : SameBlock s t := by
  cases h with
  | wait => exact ⟨rfl, rfl⟩
  | nak _ _ _ _ ht =>
    obtain ⟨B, seen, r, rfl⟩ := ht
    exact ⟨rfl, rfl⟩
  | success _ _ _ _ _ ht =>
    obtain ⟨B, seen, r, rfl⟩ := ht
    exact ⟨rfl, rfl⟩

theorem rxByte_sameBlock (b : Byte) (s : State) : SameBlock s (rxByte b s) :=
  SameBlock.trans ⟨appendRx_cfg b s, appendRx_inputs b s⟩ (rxByte_end b s).sameBlock

theorem readPayloadWindow_sameBlock (mem : Nat → Byte) (w : BitVec 14) (s : State) :
    SameBlock s (readPayloadWindow mem w s) := by
  unfold readPayloadWindow
  split <;> exact ⟨rfl, rfl⟩

/-- Every operation keeps the dialect and takes no input (00_scope.md R8). -/
theorem execNext_sameBlock (i : Instr) (s : State) : SameBlock s (execNext i s) := by
  cases i
  case ctrlExecute =>
    exact (executeCommand_sameBlock s).trans ⟨answerWrite_cfg _, answerWrite_inputs _⟩
  case rdTxp w => exact readPayloadWindow_sameBlock _ w s
  case rdRxp w => exact readPayloadWindow_sameBlock _ w s
  case wrReq d => exact guardedWrite_sameBlock (fun s => { s with req := d }) s ⟨rfl, rfl⟩
  case wrTxlen d => exact guardedWrite_sameBlock (fun s => { s with txLen := d }) s ⟨rfl, rfl⟩
  case wrPolicy d => exact guardedWrite_sameBlock (fun s => { s with policy := d }) s ⟨rfl, rfl⟩
  case wrTxp w d =>
    simp only [execNext]
    split
    · exact guardedWrite_sameBlock _ s ⟨rfl, rfl⟩
    · exact ⟨rfl, rfl⟩
  case wrRxp w =>
    simp only [execNext]
    split <;> exact ⟨rfl, rfl⟩
  case evTxAccept =>
    simp only [execNext]
    split <;> exact ⟨rfl, rfl⟩
  case evRxByte b =>
    simp only [execNext]
    split
    · exact rxByte_sameBlock b s
    · exact .refl s
  case evChClosed => exact chFailIfActive_sameBlock .closed s
  case evChError => exact chFailIfActive_sameBlock .ioError s
  case evTick =>
    simp only [execNext]
    split
    · exact .refl s
    · exact tick_sameBlock s ‹_›
  all_goals exact ⟨rfl, rfl⟩

theorem execNextAll_sameBlock (is : List Instr) (s : State) : SameBlock s (execNextAll is s) := by
  induction is generalizing s with
  | nil => exact .refl s
  | cons i is ih => exact (execNext_sameBlock i s).trans (ih (execNext i s))

/-- A step, with a reset or without, takes the inputs of one cycle and keeps the dialect. -/
theorem stepNext_sameBlock (s : State) : SameBlock (takeCycle s) (stepNext s) := by
  unfold stepNext
  split
  · exact ⟨applyReset_cfg _, applyReset_inputs _⟩
  · exact SameBlock.trans ⟨beginCycle_cfg _, beginCycle_inputs _⟩ (execNextAll_sameBlock _ _)

/-- Settles O8: no arm of a step stops (`step_eq_next`), and every operation of the cycle keeps the block. -/
theorem everyStepHasANextState : Obligations.EveryStepHasANextState := by
  intro s
  have h := stepNext_sameBlock s
  exact ⟨stepNext s, step_eq_next s, h.cfg.trans (takeCycle_cfg s), h.inputs.trans (takeCycle_inputs s)⟩

end Sys2Proof.Machine
end

section
/-! PROOFS. Canonical payload memories are determined by what they read (00_scope.md R15, log 4). -/

namespace Sys2Proof.Machine

@[simp] theorem Memory.read?_cons_self (a : Nat) (b : Byte) (m : Memory) : Memory.read? ((a, b) :: m) a = some b :=
  if_pos rfl

theorem Memory.read?_cons_of_ne {a i : Nat} (b : Byte) (m : Memory) (h : a ≠ i) :
    Memory.read? ((a, b) :: m) i = Memory.read? m i := if_neg h

theorem Memory.read?_eq_none_of_allAbove {m : Memory} {i : Nat} (h : AllAbove i m) : Memory.read? m i = none := by
  induction m with
  | nil => rfl
  | cons c m ih =>
    obtain ⟨hc, hm⟩ := List.forall_mem_cons.mp h
    rw [Memory.read?_cons_of_ne c.2 m hc.ne', ih hm]

/-- The first entry of a canonical memory is the lowest index written. -/
theorem Memory.head_le_of_read? {a i : Nat} {b v : Byte} {m : Memory} (hwf : Memory.wf ((a, b) :: m) = true)
    (h : Memory.read? ((a, b) :: m) i = some v) : a ≤ i := by
  by_contra hlt
  have habove : AllAbove i ((a, b) :: m) := by
    obtain ⟨hm, -⟩ := (Memory.wf_cons _ _).mp hwf
    exact List.forall_mem_cons.mpr ⟨not_le.mp hlt, fun c hc => (not_le.mp hlt).trans (hm c hc)⟩
  rw [Memory.read?_eq_none_of_allAbove habove] at h
  cases h

/-- Canonical memories that read alike have the same first entry, and their rests read alike. -/
theorem Memory.eq_of_read?_eq {m m' : Memory} (hm : Memory.wf m = true) (hm' : Memory.wf m' = true)
    (h : ∀ i, Memory.read? m i = Memory.read? m' i) : m = m' := by
  induction m generalizing m' with
  | nil =>
    cases m' with
    | nil => rfl
    | cons c m' => simpa [Memory.read?] using h c.1
  | cons c m ih =>
    obtain ⟨a, b⟩ := c
    cases m' with
    | nil => simpa [Memory.read?] using h a
    | cons c' m' =>
      obtain ⟨a', b'⟩ := c'
      have hb : Memory.read? ((a', b') :: m') a = some b := by rw [← h a, Memory.read?_cons_self]
      have hb' : Memory.read? ((a, b) :: m) a' = some b' := by rw [h a', Memory.read?_cons_self]
      obtain rfl : a = a' := le_antisymm (Memory.head_le_of_read? hm hb') (Memory.head_le_of_read? hm' hb)
      obtain rfl : b' = b := by simpa using hb
      obtain ⟨habove, hwf⟩ := (Memory.wf_cons _ _).mp hm
      obtain ⟨habove', hwf'⟩ := (Memory.wf_cons _ _).mp hm'
      have hrest : ∀ i, Memory.read? m i = Memory.read? m' i := by
        intro i
        by_cases hi : a = i
        · subst hi
          rw [Memory.read?_eq_none_of_allAbove habove, Memory.read?_eq_none_of_allAbove habove']
        · simpa only [Memory.read?_cons_of_ne _ _ hi] using h i
      rw [ih hwf hwf' hrest]

/-- Settles O30, by induction on the memory along `Memory.eq_of_read?_eq`. -/
theorem canonicalMemoriesAreEqualData : Obligations.CanonicalMemoriesAreEqualData :=
  fun _ _ hm hm' h => Memory.eq_of_read?_eq hm hm' h

end Sys2Proof.Machine
end

section
/-! PROOFS. The configurations that are built, field by field (00_scope.md R8, R9; 30_encoding.md R73). -/

namespace Sys2Proof

theorem byteOrderOfCode_eq_some_iff (n : Nat) (o : ByteOrder) : byteOrderOfCode n = some o ↔ o.code = n := by
  match n with
  | 0 | 1 | n + 2 => cases o <;> simp [byteOrderOfCode, ByteOrder.code]

theorem byteOrderOfCode_isSome_iff (n : Nat) : (byteOrderOfCode n).isSome = true ↔ n ≤ 1 := by
  match n with
  | 0 | 1 | n + 2 => simp [byteOrderOfCode]

theorem chkAlgOfCode_eq_some_iff (n : Nat) (g : ChkAlg) : chkAlgOfCode n = some g ↔ g.code = n := by
  match n with
  | 0 | 1 | 2 | 3 | n + 4 => cases g <;> simp [chkAlgOfCode, ChkAlg.code]

theorem chkAlgOfCode_isSome_iff (n : Nat) : (chkAlgOfCode n).isSome = true ↔ n ≤ 3 := by
  match n with
  | 0 | 1 | 2 | 3 | n + 4 => simp [chkAlgOfCode]

theorem startMarkerOfRaw_isSome_iff (r : RawConfig) :
    (startMarkerOfRaw r).isSome = true ↔ r.startLen = 1 ∨ r.startLen = 2 := by
  unfold startMarkerOfRaw
  split <;> simp_all

theorem startMarkerOfRaw_values {r : RawConfig} {cfg : Config} (h : startMarkerOfRaw r = some cfg.start) :
    cfg.startLen = r.startLen ∧ cfg.start0 = r.start0 ∧ (r.startLen = 2 → cfg.start1 = r.start1) := by
  unfold startMarkerOfRaw at h
  split at h
  · simp_all [Config.startLen, Config.start0, ← Option.some.inj h]
  · simp_all [Config.startLen, Config.start0, Config.start1, ← Option.some.inj h]
  · cases h

theorem lenFieldOfRaw_isSome_iff (r : RawConfig) :
    (lenFieldOfRaw r).isSome = true ↔ (r.lenW = 1 ∨ r.lenW = 2) ∧ r.maxPayload ≤ 2 ^ (8 * r.lenW) - 1 := by
  unfold lenFieldOfRaw
  split <;> simp_all

theorem lenFieldOfRaw_values {r : RawConfig} {cfg : Config} (h : lenFieldOfRaw r = some cfg.len) :
    cfg.lenW = r.lenW ∧ cfg.maxPayload = r.maxPayload := by
  unfold lenFieldOfRaw at h
  split at h
  · rename_i hw
    obtain ⟨hle, hlen⟩ := Option.ite_none_right_eq_some.mp h
    simp [Config.lenW, Config.maxPayload, ← Option.some.inj hlen, hw]
    omega
  · rename_i hw
    obtain ⟨hle, hlen⟩ := Option.ite_none_right_eq_some.mp h
    simp [Config.lenW, Config.maxPayload, ← Option.some.inj hlen, hw]
    omega
  · cases h

theorem Config.chkW_eq (cfg : Config) : cfg.chkW = if cfg.chkAlg.code ≤ 1 then 1 else 2 := by
  unfold Config.chkW
  cases cfg.chkAlg <;> rfl

/-- A block is built when each field of its configuration is legal, and has those fields. -/
theorem buildConfig_eq_some_iff (r : RawConfig) (cfg : Config) :
    buildConfig r = some cfg ↔
      startMarkerOfRaw r = some cfg.start ∧ lenFieldOfRaw r = some cfg.len ∧ byteOrderOfCode r.lenOrder = some cfg.lenOrder
        ∧ chkAlgOfCode r.chkAlg = some cfg.chkAlg ∧ byteOrderOfCode r.chkOrder = some cfg.chkOrder := by
  obtain ⟨start, len, lenOrder, chkAlg, chkOrder⟩ := cfg
  unfold buildConfig
  split
  · simp_all
  · rename_i hnone
    constructor
    · intro h
      cases h
    · rintro ⟨h1, h2, h3, h4, h5⟩
      exact (hnone _ _ _ _ _ h1 h2 h3 h4 h5).elim

theorem buildConfig_isSome_iff (r : RawConfig) :
    (buildConfig r).isSome = true ↔
      (startMarkerOfRaw r).isSome = true ∧ (lenFieldOfRaw r).isSome = true ∧ (byteOrderOfCode r.lenOrder).isSome = true
        ∧ (chkAlgOfCode r.chkAlg).isSome = true ∧ (byteOrderOfCode r.chkOrder).isSome = true := by
  simp only [Option.isSome_iff_exists, buildConfig_eq_some_iff]
  constructor
  · rintro ⟨cfg, h1, h2, h3, h4, h5⟩
    exact ⟨⟨_, h1⟩, ⟨_, h2⟩, ⟨_, h3⟩, ⟨_, h4⟩, ⟨_, h5⟩⟩
  · rintro ⟨⟨start, h1⟩, ⟨len, h2⟩, ⟨lenOrder, h3⟩, ⟨chkAlg, h4⟩, ⟨chkOrder, h5⟩⟩
    exact ⟨⟨start, len, lenOrder, chkAlg, chkOrder⟩, h1, h2, h3, h4, h5⟩

/-- Settles O57, field by field from `buildConfig_isSome_iff` and `buildConfig_eq_some_iff`. -/
theorem onlyLegalConfigurationsAreBuilt : Obligations.OnlyLegalConfigurationsAreBuilt := by
  intro r
  constructor
  · rw [buildConfig_isSome_iff, startMarkerOfRaw_isSome_iff, lenFieldOfRaw_isSome_iff, byteOrderOfCode_isSome_iff,
      chkAlgOfCode_isSome_iff, byteOrderOfCode_isSome_iff]
    tauto
  · intro cfg h
    obtain ⟨hstart, hlen, hlenOrder, hchkAlg, hchkOrder⟩ := (buildConfig_eq_some_iff r cfg).mp h
    obtain ⟨hstartLen, hstart0, hstart1⟩ := startMarkerOfRaw_values hstart
    obtain ⟨hlenW, hmax⟩ := lenFieldOfRaw_values hlen
    have halg := (chkAlgOfCode_eq_some_iff _ _).mp hchkAlg
    exact ⟨hstartLen, hstart0, hstart1, hlenW, (byteOrderOfCode_eq_some_iff _ _).mp hlenOrder, halg,
      (byteOrderOfCode_eq_some_iff _ _).mp hchkOrder, hmax, halg ▸ cfg.chkW_eq⟩

end Sys2Proof
end

section
/-! PROOFS. The layout of an encoded frame: the lengths of its parts, each part read back at its place, whatever bytes follow
(30_encoding.md R59 to R62, 40_frame_codec.md R80). -/

namespace Sys2Proof.Machine

/-! ### Reading bytes of a joined list -/

theorem byteAt_append_length_add (xs ys : List Byte) (k : Nat) : byteAt (xs ++ ys) (xs.length + k) = byteAt ys k := by
  unfold byteAt
  rw [List.getD_append_right _ _ _ _ (Nat.le_add_right _ _), Nat.add_sub_cancel_left]

@[simp] theorem byteAt_cons_zero (b : Byte) (B : List Byte) : byteAt (b :: B) 0 = b := rfl

@[simp] theorem byteAt_cons_succ (b : Byte) (B : List Byte) (k : Nat) : byteAt (b :: B) (k + 1) = byteAt B k := rfl

theorem slice_append_append (xs ys zs : List Byte) : slice (xs ++ (ys ++ zs)) xs.length (xs.length + ys.length) = ys := by
  unfold slice
  rw [List.drop_left, Nat.add_sub_cancel_left, List.take_left]

/-! ### Two-byte fields -/

@[simp] theorem ord16_be (v : BitVec 16) : ord16 v .be = [v.extractLsb' 8 8, v.extractLsb' 0 8] := rfl

@[simp] theorem ord16_le (v : BitVec 16) : ord16 v .le = [v.extractLsb' 0 8, v.extractLsb' 8 8] := rfl

@[simp] theorem ord16_length (v : BitVec 16) (o : ByteOrder) : (ord16 v o).length = 2 := by
  cases o <;> rfl

/-- `unord16` reads back what `ord16` wrote, in either byte order (00_scope.md R14). -/
theorem unord16_ord16 (v : BitVec 16) (o : ByteOrder) (R : List Byte) :
    unord16 (byteAt (ord16 v o ++ R) 0) (byteAt (ord16 v o ++ R) 1) o = v := by
  cases o <;> exact BitVec.extractLsb'_append_extractLsb'

theorem highByte_ofNat (n : Nat) : (BitVec.ofNat 16 n).extractLsb' 8 8 = BitVec.ofNat 8 (n / 256) := by
  apply BitVec.eq_of_toNat_eq
  simp [Nat.shiftRight_eq_div_pow]
  omega

theorem lowByte_ofNat (n : Nat) : (BitVec.ofNat 16 n).extractLsb' 0 8 = BitVec.ofNat 8 (n % 256) := by
  apply BitVec.eq_of_toNat_eq
  simp

/-! ### The length field -/

theorem lenBytes_of_lenW_one {cfg : Config} (h : cfg.lenW = 1) (n : Nat) : lenBytes cfg n = [BitVec.ofNat 8 n] :=
  if_pos h

theorem lenBytes_of_lenW_two {cfg : Config} (h : cfg.lenW = 2) (n : Nat) :
    lenBytes cfg n = ord16 (BitVec.ofNat 16 n) cfg.lenOrder := if_neg (by omega)

/-- Under BE the high byte of a two-byte length stands first (20_memory.md R47). -/
theorem lenBytes_be {cfg : Config} (h : cfg.lenW = 2) (ho : cfg.lenOrder = .be) (n : Nat) :
    lenBytes cfg n = [BitVec.ofNat 8 (n / 256), BitVec.ofNat 8 (n % 256)] := by
  rw [lenBytes_of_lenW_two h, ho, ord16_be, highByte_ofNat, lowByte_ofNat]

/-- Under LE the low byte of a two-byte length stands first (20_memory.md R47). -/
theorem lenBytes_le {cfg : Config} (h : cfg.lenW = 2) (ho : cfg.lenOrder = .le) (n : Nat) :
    lenBytes cfg n = [BitVec.ofNat 8 (n % 256), BitVec.ofNat 8 (n / 256)] := by
  rw [lenBytes_of_lenW_two h, ho, ord16_le, highByte_ofNat, lowByte_ofNat]

@[simp] theorem lenBytes_length (cfg : Config) (n : Nat) : (lenBytes cfg n).length = cfg.lenW := by
  rcases cfg.lenW_cases with h | h
  · rw [lenBytes_of_lenW_one h, h, List.length_singleton]
  · rw [lenBytes_of_lenW_two h, h, ord16_length]

/-! ### The checksum field -/

theorem chkBytes_of_chkW_one {cfg : Config} (h : cfg.chkW = 1) (v : BitVec 16) : chkBytes cfg v = [v.extractLsb' 0 8] :=
  if_pos h

theorem chkBytes_of_chkW_two {cfg : Config} (h : cfg.chkW = 2) (v : BitVec 16) : chkBytes cfg v = ord16 v cfg.chkOrder :=
  if_neg (by omega)

@[simp] theorem chkBytes_length (cfg : Config) (v : BitVec 16) : (chkBytes cfg v).length = cfg.chkW := by
  rcases cfg.chkW_cases with h | h
  · rw [chkBytes_of_chkW_one h, h, List.length_singleton]
  · rw [chkBytes_of_chkW_two h, h, ord16_length]

/-- A checksum of one byte is that byte, widened (40_frame_codec.md R79). -/
theorem checksum_eq_setWidth_lowByte {cfg : Config} (h : cfg.chkW = 1) (D : List Byte) :
    ((checksum cfg D).extractLsb' 0 8).setWidth 16 = checksum cfg D := by
  have widened : ∀ b : Byte, ((b.setWidth 16).extractLsb' 0 8).setWidth 16 = b.setWidth 16 := by
    intro b
    apply BitVec.eq_of_toNat_eq
    simp
    omega
  unfold checksum
  unfold Config.chkW at h
  cases hg : cfg.chkAlg with
  | xor8 => exact widened _
  | sum8 => exact widened _
  | sum16 => simp [hg] at h
  | crc16 => simp [hg] at h

/-! ### The frame -/

theorem covered_eq (cfg : Config) (a c : Byte) (p : List Byte) :
    covered cfg a c p = a :: c :: (lenBytes cfg p.length ++ p) := rfl

@[simp] theorem covered_length (cfg : Config) (a c : Byte) (p : List Byte) :
    (covered cfg a c p).length = 2 + cfg.lenW + p.length := by
  simp [covered_eq]
  omega

/-- HDR_LEN and the payload are the start marker and the bytes that the checksum covers (00_scope.md R9). -/
theorem hdrLen_add_length (cfg : Config) (a c : Byte) (p : List Byte) :
    cfg.hdrLen + p.length = cfg.startBytes.length + (covered cfg a c p).length := by
  rw [cfg.hdrLen_eq, cfg.startBytes_length, covered_length]
  omega

theorem encodeFrame_length (cfg : Config) (a c : Byte) (p : List Byte) :
    (encodeFrame cfg a c p).length = cfg.frameLen p.length := by
  simp only [encodeFrame, List.length_append, chkBytes_length, cfg.frameLen_eq, hdrLen_add_length cfg a c p]

section Layout
variable (cfg : Config) (a c : Byte) (p R : List Byte)

/-- A frame with the bytes behind it, cut behind the start marker. -/
theorem encodeFrame_append :
    encodeFrame cfg a c p ++ R =
      cfg.startBytes ++ (covered cfg a c p ++ (chkBytes cfg (checksum cfg (covered cfg a c p)) ++ R)) := by
  simp only [encodeFrame, List.append_assoc]

theorem take_startLen_encodeFrame_append : (encodeFrame cfg a c p ++ R).take cfg.startLen = cfg.startBytes := by
  rw [encodeFrame_append, ← cfg.startBytes_length, List.take_left]

theorem byteAt_startLen_add_encodeFrame_append (k : Nat) :
    byteAt (encodeFrame cfg a c p ++ R) (cfg.startLen + k) =
      byteAt (covered cfg a c p ++ (chkBytes cfg (checksum cfg (covered cfg a c p)) ++ R)) k := by
  rw [encodeFrame_append, ← cfg.startBytes_length, byteAt_append_length_add]

theorem byteAt_addr_encodeFrame_append : byteAt (encodeFrame cfg a c p ++ R) cfg.startLen = a :=
  byteAt_startLen_add_encodeFrame_append cfg a c p R 0

theorem byteAt_cmd_encodeFrame_append : byteAt (encodeFrame cfg a c p ++ R) (cfg.startLen + 1) = c :=
  byteAt_startLen_add_encodeFrame_append cfg a c p R 1

/-- The bytes behind the command are those of the length field. -/
theorem byteAt_length_encodeFrame_append {k : Nat} (hk : k < cfg.lenW) :
    byteAt (encodeFrame cfg a c p ++ R) (cfg.startLen + 2 + k) = byteAt (lenBytes cfg p.length) k := by
  rw [Nat.add_assoc, byteAt_startLen_add_encodeFrame_append, covered_eq, Nat.add_comm 2 k]
  simp only [List.cons_append, List.append_assoc, byteAt_cons_succ]
  exact List.getD_append _ _ _ _ (by rwa [lenBytes_length])

/-- The decoder's length field of a frame is the length of its payload (30_encoding.md R61). -/
theorem lengthField_encodeFrame_append (hp : p.length ≤ cfg.maxPayload) :
    lengthField cfg (encodeFrame cfg a c p ++ R) = p.length := by
  unfold lengthField
  rcases cfg.lenW_cases with h | h
  · have hlt : p.length < 256 := hp.trans_lt (cfg.maxPayload_of_lenW_one h)
    rw [if_pos h, ← Nat.add_zero (cfg.startLen + 2), byteAt_length_encodeFrame_append cfg a c p R (by omega),
      lenBytes_of_lenW_one h, byteAt_cons_zero, BitVec.toNat_ofNat, Nat.mod_eq_of_lt hlt]
  · have hlt : p.length < 65536 := hp.trans_lt cfg.maxPayload_lt
    have hread := unord16_ord16 (BitVec.ofNat 16 p.length) cfg.lenOrder []
    rw [List.append_nil, ← lenBytes_of_lenW_two h, ← byteAt_length_encodeFrame_append cfg a c p R (by omega),
      ← byteAt_length_encodeFrame_append cfg a c p R (by omega)] at hread
    rw [if_neg (by omega)]
    exact hread ▸ Nat.mod_eq_of_lt hlt

theorem slice_covered_encodeFrame_append :
    slice (encodeFrame cfg a c p ++ R) cfg.startLen (cfg.hdrLen + p.length) = covered cfg a c p := by
  rw [encodeFrame_append, hdrLen_add_length cfg a c p, ← cfg.startBytes_length, slice_append_append]

theorem slice_payload_encodeFrame_append :
    slice (encodeFrame cfg a c p ++ R) cfg.hdrLen (cfg.hdrLen + p.length) = p := by
  have hhdr : (cfg.startBytes ++ (a :: c :: lenBytes cfg p.length)).length = cfg.hdrLen := by
    simp [cfg.startBytes_length, cfg.hdrLen_eq]
    omega
  have hcut := slice_append_append (cfg.startBytes ++ (a :: c :: lenBytes cfg p.length)) p
    (chkBytes cfg (checksum cfg (covered cfg a c p)) ++ R)
  rw [hhdr] at hcut
  simpa [encodeFrame_append, covered_eq] using hcut

/-- The bytes behind the payload are those of the checksum field. -/
theorem byteAt_checksum_encodeFrame_append (k : Nat) :
    byteAt (encodeFrame cfg a c p ++ R) (cfg.hdrLen + p.length + k) =
      byteAt (chkBytes cfg (checksum cfg (covered cfg a c p)) ++ R) k := by
  rw [hdrLen_add_length cfg a c p, encodeFrame_append, Nat.add_assoc, byteAt_append_length_add, byteAt_append_length_add]

/-- The received checksum of a frame is the checksum of the bytes it covers (30_encoding.md R62). -/
theorem receivedChecksum_encodeFrame_append :
    receivedChecksum cfg (encodeFrame cfg a c p ++ R) (cfg.frameLen p.length) = checksum cfg (covered cfg a c p) := by
  have hfield := byteAt_checksum_encodeFrame_append cfg a c p R
  unfold receivedChecksum
  rw [cfg.frameLen_eq]
  rcases cfg.chkW_cases with h | h
  · rw [if_pos h, h, Nat.add_sub_cancel, ← Nat.add_zero (cfg.hdrLen + p.length), hfield, chkBytes_of_chkW_one h]
    exact checksum_eq_setWidth_lowByte h _
  · rw [if_neg (by omega), h, Nat.add_sub_cancel, ← Nat.add_zero (cfg.hdrLen + p.length), hfield,
      show cfg.hdrLen + p.length + 0 + 2 - 1 = cfg.hdrLen + p.length + 1 by omega, hfield, chkBytes_of_chkW_two h]
    exact unord16_ord16 _ _ _

end Layout

/-- Settles O32: each clause reads one part of the frame back at its place; the byte order enters through `lenBytes` and
`chkBytes`. -/
theorem encodedFrameLayout : Obligations.EncodedFrameLayout := by
  intro cfg a c p hp
  rw [← List.append_nil (encodeFrame cfg a c p)]
  have hlen := fun k (hk : k < cfg.lenW) => byteAt_length_encodeFrame_append cfg a c p [] hk
  have hchk := byteAt_checksum_encodeFrame_append cfg a c p []
  refine ⟨?_, take_startLen_encodeFrame_append cfg a c p [], byteAt_addr_encodeFrame_append cfg a c p [],
    byteAt_cmd_encodeFrame_append cfg a c p [], fun h => ?_, fun h ho => ?_, fun h ho => ?_,
    lengthField_encodeFrame_append cfg a c p [] hp, slice_payload_encodeFrame_append cfg a c p [], fun v hv => ?_⟩
  · rw [List.append_nil, encodeFrame_length]
  · rw [lenBytes_of_lenW_one h] at hlen
    exact hlen 0 (by omega)
  · rw [lenBytes_be h ho, h] at hlen
    exact ⟨hlen 0 (by decide), hlen 1 (by decide)⟩
  · rw [lenBytes_le h ho, h] at hlen
    exact ⟨hlen 0 (by decide), hlen 1 (by decide)⟩
  · rw [slice_covered_encodeFrame_append] at hv
    subst hv
    refine ⟨fun h => ?_, fun h ho => ?_, fun h ho => ?_, receivedChecksum_encodeFrame_append cfg a c p []⟩
    · rw [chkBytes_of_chkW_one h] at hchk
      exact hchk 0
    · rw [chkBytes_of_chkW_two h, ho] at hchk
      exact ⟨hchk 0, hchk 1⟩
    · rw [chkBytes_of_chkW_two h, ho] at hchk
      exact ⟨hchk 0, hchk 1⟩

end Sys2Proof.Machine
end

section
/-! PROOFS. Everything one operation can do to the block, said once: what holds of every operation is a case split on it
(41_synchronizer.md, 42_sequencer.md, 43_host_ops.md). -/

namespace Sys2Proof.Machine

/-- A write of REQ, TXLEN, POLICY or the TX window (10_state.md R38). -/
def IsRequestWrite (i : Instr) : Prop := ∃ d n p w, i = .wrReq d ∨ i = .wrTxlen n ∨ i = .wrPolicy p ∨ i = .wrTxp w d

/-- What operation `i` can make of state `s`: one constructor for each kind of update, with the guard under which it is
made. -/
inductive OpEffect (s : State) : Instr → State → Prop where
  /-- Nothing but an answer on the host bus, or nothing at all. -/
  | answer (i : Instr) (o : Outputs) : OpEffect s i { s with out := o }
  /-- A refused command or write (60_exceptions.md R142). -/
  | refuse (i : Instr) (code : ErrCode) (o : Outputs) (hcode : code ≠ .none)
      (hi : i = .ctrlExecute ∨ i = .ctrlReserved ∨ (s.phase ≠ .idle ∧ IsRequestWrite i)) :
      OpEffect s i { setErr code s with out := o }
  | ack (o : Outputs) : OpEffect s .ctrlAck { acknowledge s with out := o }
  /-- A write of the request; what is written to TXP keeps its form and its bound. -/
  | request (i : Instr) (req : BitVec 32) (txLen : BitVec 16) (policy : BitVec 26) (txp : Memory) (o : Outputs)
      (hidle : s.phase = .idle) (hwf : Memory.wf s.txp = true → Memory.wf txp = true)
      (hbound : (∀ c ∈ s.txp, c.1 < s.cfg.maxPayload) → ∀ c ∈ txp, c.1 < s.cfg.maxPayload) :
      OpEffect s i { s with req := req, txLen := txLen, policy := policy, txp := txp, out := o }
  | execute (o : Outputs) (hidle : s.phase = .idle) (hlen : s.txLen.toNat ≤ s.cfg.maxPayload) (htime : s.timeout ≠ 0#16) :
      OpEffect s .ctrlExecute { execStart s with out := o }
  | txAccept (htx : s.phase = .tx) : OpEffect s .evTxAccept (txAccept s)
  | rxByte (b : Byte) (t : State) (hrx : s.phase = .rx) (hend : RxEnd s t) : OpEffect s (.evRxByte b) t
  | chFail (i : Instr) (r : Reason) (hactive : s.phase = .tx ∨ s.phase = .rx)
      (hi : (i = .evChClosed ∧ r = .closed) ∨ (i = .evChError ∧ r = .ioError)) : OpEffect s i (chFail r s)
  | countDown (hbusy : s.phase ≠ .idle) (hdl : s.dl ≠ 1#16) : OpEffect s .evTick (countDown s)
  | retry (hbusy : s.phase ≠ .idle) (hdl : s.dl = 1#16) (hretry : mayRetry s (attemptFailure s).1) :
      OpEffect s .evTick (attemptStart (countDown s))
  | expire (hbusy : s.phase ≠ .idle) (hdl : s.dl = 1#16) (hend : ¬ mayRetry s (attemptFailure s).1) :
      OpEffect s .evTick (finish (attemptFailure s).1 (attemptFailure s).2 (countDown s))

theorem OpEffect.unchanged (i : Instr) (s : State) : OpEffect s i s := .answer i s.out

/-- Seen from the state before the byte is appended, which differs in RXBUF alone. -/
theorem rxByte_rxEnd (b : Byte) (s : State) : RxEnd s (rxByte b s) := (rxByte_end b s).of_turn rfl (.inl ⟨rfl, rfl⟩)

theorem readPayloadWindow_effect (i : Instr) (mem : Nat → Byte) (w : BitVec 14) (s : State) :
    OpEffect s i (readPayloadWindow mem w s) := by
  unfold readPayloadWindow
  split
  · exact .answer i _
  · exact .answer i _

/-- A guarded write is refused, or changes the request in IDLE (10_state.md R38). -/
theorem guardedWrite_effect {i : Instr} (hi : IsRequestWrite i) (write : State → State) (s : State)
    {req : BitVec 32} {txLen : BitVec 16} {policy : BitVec 26} {txp : Memory}
    (hwrite : write s = { s with req := req, txLen := txLen, policy := policy, txp := txp })
    (hwf : Memory.wf s.txp = true → Memory.wf txp = true)
    (hbound : (∀ c ∈ s.txp, c.1 < s.cfg.maxPayload) → ∀ c ∈ txp, c.1 < s.cfg.maxPayload) :
    OpEffect s i (guardedWrite write s) := by
  rcases guardedWrite_cases write s with ⟨hbusy, he⟩ | ⟨hidle, he⟩ <;> rw [he]
  · exact .refuse i .writeWhileBusy _ (by decide) (.inr (.inr ⟨hbusy, hi⟩))
  · rw [hwrite]
    exact .request i req txLen policy txp _ hidle hwf hbound

theorem executeCommand_effect (s : State) : OpEffect s .ctrlExecute (answerWrite (executeCommand s)) := by
  rcases executeCommand_cases s with ⟨-, he⟩ | ⟨-, -, he⟩ | ⟨-, -, -, he⟩ | ⟨hidle, hlen, htime, he⟩ <;> rw [he]
  · exact .refuse _ .execWhileBusy _ (by decide) (.inl rfl)
  · exact .refuse _ .payloadTooLarge _ (by decide) (.inl rfl)
  · exact .refuse _ .badTimeout _ (by decide) (.inl rfl)
  · exact .execute _ hidle hlen htime

theorem chFailIfActive_effect {i : Instr} {r : Reason} (s : State)
    (hi : (i = .evChClosed ∧ r = .closed) ∨ (i = .evChError ∧ r = .ioError)) : OpEffect s i (chFailIfActive r s) := by
  rcases chFailIfActive_cases r s with ⟨hactive, he⟩ | ⟨-, he⟩ <;> rw [he]
  · exact .chFail i r hactive hi
  · exact .unchanged i s

theorem tick_effect (s : State) (hbusy : s.phase ≠ .idle) : OpEffect s .evTick (tick s) := by
  rcases tick_cases s hbusy with ⟨hdl, he⟩ | ⟨hdl, hretry, he⟩ | ⟨hdl, hend, he⟩ <;> rw [he]
  · exact .countDown hbusy hdl
  · exact .retry hbusy hdl hretry
  · exact .expire hbusy hdl hend

/-- Each operation has one of the effects of `OpEffect`. -/
theorem execNext_effect (i : Instr) (s : State) : OpEffect s i (execNext i s) := by
  cases i
  case ctrlExecute => exact executeCommand_effect s
  case ctrlAck => exact .ack _
  case ctrlReserved => exact .refuse _ .reservedOp _ (by decide) (.inr (.inl rfl))
  case rdTxp w => exact readPayloadWindow_effect _ _ w s
  case rdRxp w => exact readPayloadWindow_effect _ _ w s
  case wrReq d => exact guardedWrite_effect ⟨d, 0, 0, 0, .inl rfl⟩ (fun s => { s with req := d }) s rfl id id
  case wrTxlen n => exact guardedWrite_effect ⟨0, n, 0, 0, .inr (.inl rfl)⟩ (fun s => { s with txLen := n }) s rfl id id
  case wrPolicy p =>
    exact guardedWrite_effect ⟨0, 0, p, 0, .inr (.inr (.inl rfl))⟩ (fun s => { s with policy := p }) s rfl id id
  case wrTxp w d =>
    simp only [execNext]
    split
    · exact guardedWrite_effect ⟨d, 0, 0, w, .inr (.inr (.inr rfl))⟩ _ s rfl (wf_writeWindow s.cfg s.txp w.toNat d)
        (bound_writeWindow s.cfg s.txp w.toNat d)
    · exact .answer _ _
  case wrRxp w =>
    simp only [execNext]
    split
    · exact .answer _ _
    · exact .answer _ _
  case evTxAccept =>
    simp only [execNext]
    split
    · exact .txAccept ‹_›
    · exact .unchanged _ s
  case evRxByte b =>
    simp only [execNext]
    split
    · exact .rxByte b _ ‹_› (rxByte_rxEnd b s)
    · exact .unchanged _ s
  case evChClosed => exact chFailIfActive_effect s (.inl ⟨rfl, rfl⟩)
  case evChError => exact chFailIfActive_effect s (.inr ⟨rfl, rfl⟩)
  case evTick =>
    simp only [execNext]
    split
    · exact .unchanged _ s
    · exact tick_effect s ‹_›
  all_goals exact .answer _ _

theorem exec_effect {i : Instr} {s t : State} (h : exec i s = .next t) : OpEffect s i t := by
  rw [exec_next_iff] at h
  exact h ▸ execNext_effect i s

end Sys2Proof.Machine
end

section
/-! PROOFS. The invariant of the block: it holds after a reset, each effect of an operation keeps it, and so does every
step. -/

namespace Sys2Proof.Machine

/-! ### The invariant of a block in a known phase -/

/-- What the invariant asks of a block in phase `p` alone. -/
abbrev PhaseInv (s : State) : Phase → Prop
  | .idle => IdleInv s
  | .tx => BusyInv s ∧ TxInv s
  | .rx => BusyInv s ∧ RxInv s
  | .holdoff => BusyInv s ∧ HoldoffInv s

/-- The invariant of a block whose phase is known. -/
theorem Inv.ofPhase {s : State} {p : Phase} (hp : s.phase = p) (memories : MemoriesWf s) (phase : PhaseInv s p)
    (result : ResultInv s) (err : s.err = false ↔ s.errCode = .none)
    (marks : if s.invSeen then s.invRsn.isInvalid = true else s.invRsn = .none) : Inv s where
  memories := memories
  idle h := by obtain rfl := hp.symm.trans h; exact phase
  busy h := by
    cases p with
    | idle => exact absurd hp h
    | tx => exact phase.1
    | rx => exact phase.1
    | holdoff => exact phase.1
  tx h := by obtain rfl := hp.symm.trans h; exact phase.2
  rx h := by obtain rfl := hp.symm.trans h; exact phase.2
  holdoff h := by obtain rfl := hp.symm.trans h; exact phase.2
  result := result
  err := err
  marks := marks

/-! ### Reset -/

theorem reset_inv (cfg : Config) (epoch : Nat) (inputs : List Cycle) :
    Inv { State.reset with cfg := cfg, epoch := epoch, inputs := inputs } :=
  .ofPhase (p := .idle) rfl ⟨rfl, rfl, nofun, nofun⟩ ⟨rfl, rfl, rfl, rfl, rfl⟩
    ⟨rfl, nofun, fun _ _ => ⟨rfl, rfl, rfl⟩, fun _ => rfl, fun _ => rfl, Nat.zero_le _, Nat.zero_le _⟩
    ⟨fun _ => rfl, fun _ => rfl⟩ rfl

/-- Settles O53, with `Config.ref` and any other dialect as cases of one lemma. -/
theorem invariantHoldsAtReset : Obligations.InvariantHoldsAtReset :=
  ⟨reset_inv Config.ref 0 [], fun cfg => reset_inv cfg 0 []⟩

/-! ### The effects of the operations -/

/-- The flags that the host clears, the contract error and the outputs are free, within what the invariant says of them. -/
theorem Inv.withHostFields {s : State} (h : Inv s) {done err : Bool} {code : ErrCode} (o : Outputs) (inputs : List Cycle)
    (hdone : done = true → s.done = true) (herr : err = false ↔ code = .none) :
    Inv { s with done := done, err := err, errCode := code, out := o, inputs := inputs } where
  memories := { h.memories with }
  idle hp := { h.idle hp with }
  busy hp := { h.busy hp with done := by simpa [(h.busy hp).done] using hdone }
  tx hp := { h.tx hp with }
  rx hp := { h.rx hp with }
  holdoff hp := { h.holdoff hp with }
  result := { h.result with done := fun hd => h.result.done (hdone hd) }
  err := herr
  marks := h.marks

theorem Inv.withOut {s : State} (h : Inv s) (o : Outputs) : Inv { s with out := o } :=
  h.withHostFields o s.inputs id h.err

theorem finish_inv {o : TxnOutcome} {r : Reason} {s : State} (memories : MemoriesWf s)
    (err : s.err = false ↔ s.errCode = .none) (result : ResultInv (finish o r s)) : Inv (finish o r s) :=
  .ofPhase (p := .idle) rfl { memories with } ⟨rfl, rfl, rfl, rfl, rfl⟩ result err rfl

/-- An attempt starts within the budget of retries, with the result clear and an accepted request (42_sequencer.md R92,
R93). -/
theorem attemptStart_inv {s : State} (h : Inv s) (hdone : s.done = false) (houtcome : s.outcome = .none)
    (hlen : s.txLen.toNat ≤ s.cfg.maxPayload) (htime : 0 < s.timeout.toNat)
    (hattempts : s.attempts.toNat ≤ s.maxRetries.toNat) : Inv (attemptStart s) := by
  have hmax := s.maxRetries.isLt
  have hsucc : (s.attempts + 1#9).toNat = s.attempts.toNat + 1 := by bv_omega
  refine .ofPhase (p := .tx) rfl { h.memories with }
    ⟨⟨hdone, houtcome, hlen, htime, le_refl _, ?_, ?_⟩, ⟨?_, rfl, rfl, rfl⟩⟩ { h.result with attempts := ?_ } h.err rfl
  · simp only [attemptStart_attempts, hsucc]; omega
  · simp only [attemptStart_attempts, hsucc, attemptStart_maxRetries]; omega
  · have := s.cfg.hdrLen_ge
    simp only [attemptStart_txIdx, attemptStart_cfg, attemptStart_txLen, s.cfg.frameLen_eq, BitVec.toNat_ofNat]
    omega
  · simp only [attemptStart_attempts, hsucc]; omega

/-- The result fields are cleared (42_sequencer.md R92). -/
def clearResult (s : State) : State :=
  { s with
    done := false, outcome := .none, reason := .none, rspAddr := 0#8, rspCmdRx := 0#8, rxLen := 0#16, nakCode := 0#8,
    nakValid := false, attempts := 0#9 }

theorem execStart_eq (s : State) : execStart s = attemptStart (clearResult s) := rfl

theorem clearResult_inv {s : State} (h : Inv s) (hidle : s.phase = .idle) : Inv (clearResult s) :=
  .ofPhase hidle { h.memories with } { h.idle hidle with }
    ⟨rfl, nofun, fun _ _ => ⟨rfl, rfl, rfl⟩, fun _ => rfl, fun _ => rfl, Nat.zero_le _, Nat.zero_le _⟩ h.err h.marks

theorem execStart_inv {s : State} (h : Inv s) (hidle : s.phase = .idle) (hlen : s.txLen.toNat ≤ s.cfg.maxPayload)
    (htime : s.timeout ≠ 0#16) : Inv (execStart s) := by
  have hpos : 0 < s.timeout.toNat := by bv_omega
  exact attemptStart_inv (clearResult_inv h hidle) rfl rfl hlen hpos (Nat.zero_le _)

/-- TXIDX does not wrap while a frame is sent (10_state.md R18, R21). -/
theorem txAccept_txIdx_toNat {s : State} (hidx : s.txIdx.toNat < s.cfg.frameLen s.txLen.toNat)
    (hlen : s.txLen.toNat ≤ s.cfg.maxPayload) : (s.txIdx + 1#17).toNat = s.txIdx.toNat + 1 := by
  have := s.cfg.frameLen_lt _ hlen
  bv_omega

theorem txAccept_inv {s : State} (h : Inv s) (htx : s.phase = .tx) : Inv (txAccept s) := by
  have busy := h.busy (by simp [htx])
  obtain ⟨hidx, hbuf, hseen, hfail⟩ := h.tx htx
  have hnext := txAccept_txIdx_toNat hidx busy.txLen
  by_cases hlast : (s.txIdx + 1#17).toNat = s.cfg.frameLen s.txLen.toNat
  · refine .ofPhase (p := .rx) ?_ { h.memories with } ⟨{ busy with }, ⟨hlast, ?_, hfail⟩⟩ { h.result with } h.err
      h.marks
    · rw [txAccept_phase, if_pos hlast]
    · rw [txAccept_rxBuf, hbuf, decodeFrame_nil]
  · refine .ofPhase (p := .tx) ?_ { h.memories with } ⟨{ busy with }, ⟨?_, hbuf, hseen, hfail⟩⟩ { h.result with } h.err
      h.marks
    · rw [txAccept_phase, if_neg hlast, htx]
    · simp only [txAccept_txIdx, txAccept_cfg, txAccept_txLen]
      omega

theorem chFail_inv {s : State} (h : Inv s) (hactive : s.phase = .tx ∨ s.phase = .rx) {r : Reason}
    (hr : r.isChannel = true) : Inv (chFail r s) := by
  have busy := h.busy (by rcases hactive with hp | hp <;> simp [hp])
  have hidx := hactive.elim (fun hp => (h.tx hp).txIdx.le) (fun hp => (h.rx hp).txIdx.le)
  exact .ofPhase (p := .holdoff) rfl { h.memories with } ⟨{ busy with }, ⟨hidx, rfl, hr⟩⟩ { h.result with } h.err h.marks

theorem countDown_inv {s : State} (h : Inv s) (hbusy : s.phase ≠ .idle) (hdl : s.dl ≠ 1#16) : Inv (countDown s) where
  memories := { h.memories with }
  idle hp := absurd hp hbusy
  busy _ := by
    have busy := h.busy hbusy
    have hpos := busy.dl_pos
    have hle := busy.dl_le
    refine { busy with dl_pos := ?_, dl_le := ?_ }
    · simp only [countDown_dl]; bv_omega
    · simp only [countDown_dl, countDown_timeout]; bv_omega
  tx hp := { h.tx hp with }
  rx hp := { h.rx hp with }
  holdoff hp := { h.holdoff hp with }
  result := { h.result with }
  err := h.err
  marks := h.marks

/-! ### The end of a transaction -/

/-- The reason that an attempt fails with goes with its outcome (42_sequencer.md R103). -/
theorem Inv.attemptFailure_fits {s : State} (h : Inv s) :
    reasonFits (attemptFailure s).1 (attemptFailure s).2 = true ∧ (attemptFailure s).1 ≠ .none := by
  unfold attemptFailure
  split
  · exact ⟨(h.holdoff ‹_›).failRsn, nofun⟩
  · split
    · rename_i hrx
      have hinvalid : s.invRsn.isInvalid = true := by simpa [hrx.2] using h.marks
      exact ⟨hinvalid, nofun⟩
    · exact ⟨rfl, nofun⟩

/-- An attempt starts with a new deadline, whatever DL was. -/
theorem attemptStart_countDown (s : State) : attemptStart (countDown s) = attemptStart s := rfl

theorem retry_inv {s : State} (h : Inv s) (hbusy : s.phase ≠ .idle) {K : TxnOutcome} (hretry : mayRetry s K) :
    Inv (attemptStart (countDown s)) := by
  obtain ⟨-, hattempts⟩ := hretry
  have busy := h.busy hbusy
  rw [attemptStart_countDown]
  exact attemptStart_inv h busy.done busy.outcome busy.txLen (busy.dl_pos.trans_le busy.dl_le) hattempts

theorem expire_inv {s : State} (h : Inv s) (hbusy : s.phase ≠ .idle) :
    Inv (finish (attemptFailure s).1 (attemptFailure s).2 (countDown s)) := by
  have houtcome := (h.busy hbusy).outcome
  obtain ⟨hfits, hne⟩ := h.attemptFailure_fits
  refine finish_inv { h.memories with } h.err
    { h.result with reason := hfits, done := fun _ => hne, noFrame := fun _ _ => ?_, noNak := fun _ => ?_ }
  · exact h.result.noFrame (by simp [houtcome]) (by simp [houtcome])
  · exact h.result.noNak (by simp [houtcome])

theorem MemoriesWf.record {s : State} (h : MemoriesWf s) {f : Frame} (hf : f.payload.length ≤ s.cfg.maxPayload) :
    MemoriesWf (record f s) where
  txp_wf := h.txp_wf
  rxp_wf := Memory.wf_writeBytes _ _ _ h.rxp_wf
  txp_bound := h.txp_bound
  rxp_bound := Memory.bound_writeBytes _ _ _ _ h.rxp_bound (by simpa using hf)

theorem record_rxLen_le {s : State} {f : Frame} (hf : f.payload.length ≤ s.cfg.maxPayload) :
    (record f s).rxLen.toNat ≤ s.cfg.maxPayload := by
  rw [record_rxLen, BitVec.toNat_ofNat]
  exact (Nat.mod_le _ _).trans hf

/-- However the decode loop ends, it leaves an incomplete buffer or an ended transaction (41_synchronizer.md R86, R88). -/
theorem RxEnd.inv {s t : State} (h : Inv s) (hrx : s.phase = .rx) (hend : RxEnd s t) : Inv t := by
  have busy := h.busy (by simp [hrx])
  cases hend with
  | wait B seen r hB hr =>
    refine .ofPhase hrx { h.memories with } ⟨{ busy with }, { h.rx hrx with rxBuf := hB }⟩ { h.result with } h.err ?_
    rcases hr with ⟨rfl, rfl⟩ | ⟨rfl, hr⟩
    · exact h.marks
    · exact hr
  | nak f u hf _ hu =>
    obtain ⟨B, seen, r, rfl⟩ := hu
    refine finish_inv { h.memories.record hf with } h.err
      ⟨rfl, nofun, fun _ hn => absurd rfl hn, fun hn => absurd rfl hn, ?_, record_rxLen_le hf, h.result.attempts⟩
    cases hp : f.payload <;> simp [hp]
  | success f u hf _ _ hu =>
    obtain ⟨B, seen, r, rfl⟩ := hu
    have hnak := h.result.noNak (by simp [busy.outcome])
    exact finish_inv { h.memories.record hf with } h.err
      ⟨rfl, nofun, fun hn => absurd rfl hn, fun _ => hnak, h.result.nakCode, record_rxLen_le hf, h.result.attempts⟩

/-! ### Every step -/

theorem Inv.ofEffect {i : Instr} {s t : State} (h : Inv s) (he : OpEffect s i t) : Inv t := by
  cases he with
  | answer _ o => exact h.withOut o
  | refuse _ code o hcode _ => exact h.withHostFields o s.inputs id (by simp [hcode])
  | ack o => exact h.withHostFields o s.inputs (by simp) (by simp)
  | request _ req txLen policy txp o hidle hwf hbound =>
    exact .ofPhase hidle
      { h.memories with txp_wf := hwf h.memories.txp_wf, txp_bound := hbound h.memories.txp_bound }
      { h.idle hidle with } { h.result with } h.err h.marks
  | execute o hidle hlen htime => exact (execStart_inv h hidle hlen htime).withOut o
  | txAccept htx => exact txAccept_inv h htx
  | rxByte b _ hrx hend => exact hend.inv h hrx
  | chFail _ r hactive hi => exact chFail_inv h hactive (by rcases hi with ⟨-, rfl⟩ | ⟨-, rfl⟩ <;> rfl)
  | countDown hbusy hdl => exact countDown_inv h hbusy hdl
  | retry hbusy _ hretry => exact retry_inv h hbusy hretry
  | expire hbusy _ _ => exact expire_inv h hbusy

theorem execNextAll_inv {s : State} (h : Inv s) (is : List Instr) : Inv (execNextAll is s) := by
  induction is generalizing s with
  | nil => exact h
  | cons i is ih => exact ih (h.ofEffect (execNext_effect i s))

theorem stepNext_inv {s : State} (h : Inv s) : Inv (stepNext s) := by
  unfold stepNext
  split
  · exact reset_inv _ _ _
  · exact execNextAll_inv (h.withHostFields (cycleOutputs (takeCycle s)) s.inputs.tail id h.err) _

/-- Settles O54: a reset gives a state of the invariant, and each operation of any other cycle keeps it, since each of its
effects does. -/
theorem stepKeepsTheInvariant : Obligations.StepKeepsTheInvariant := by
  intro s t h hstep
  rw [step_next_iff] at hstep
  exact hstep ▸ stepNext_inv h

end Sys2Proof.Machine
end

section
/-! PROOFS. What an operation keeps of the request, of the flags and of the result, each read off its effect (10_state.md
R19, R23, R38; 60_exceptions.md R141, R142). -/

namespace Sys2Proof.Machine

/-! ### The request -/

/-- The states `s` and `t` hold the same request, with the same free bytes behind it. -/
structure SameRequest (s t : State) : Prop where
  cfg : t.cfg = s.cfg
  req : t.req = s.req
  txLen : t.txLen = s.txLen
  policy : t.policy = s.policy
  txp : t.txp = s.txp
  epoch : t.epoch = s.epoch

/-- The frame on the wire is a function of the request (30_encoding.md R70). -/
theorem SameRequest.txFrame_eq {s t : State} (h : SameRequest s t) : t.txFrame = s.txFrame := by
  have hbyte : t.txpByte = s.txpByte := by
    funext i
    rw [State.txpByte, State.txpByte, h.txp, h.epoch]
  simp only [State.txFrame, State.txPayload, State.reqAddr, State.reqCmd, h.cfg, h.req, h.txLen, hbyte]

theorem RxEnd.sameRequest {s t : State} (h : RxEnd s t) : SameRequest s t := by
  cases h with
  | wait => exact ⟨rfl, rfl, rfl, rfl, rfl, rfl⟩
  | nak _ _ _ _ ht =>
    obtain ⟨B, seen, r, rfl⟩ := ht
    exact ⟨rfl, rfl, rfl, rfl, rfl, rfl⟩
  | success _ _ _ _ _ ht =>
    obtain ⟨B, seen, r, rfl⟩ := ht
    exact ⟨rfl, rfl, rfl, rfl, rfl, rfl⟩

/-- Only a write in IDLE changes the request (10_state.md R38). -/
theorem OpEffect.sameRequest {i : Instr} {s t : State} (h : OpEffect s i t) (hbusy : s.phase ≠ .idle) :
    SameRequest s t := by
  cases h with
  | request _ _ _ _ _ _ hidle => exact absurd hidle hbusy
  | rxByte _ _ _ hend => exact hend.sameRequest
  | _ => exact ⟨rfl, rfl, rfl, rfl, rfl, rfl⟩

/-- Settles O49: no effect on a busy block changes the request. -/
theorem requestIsFrozenWhileBusy : Obligations.RequestIsFrozenWhileBusy := by
  intro i s t hbusy hexec
  have h := (exec_effect hexec).sameRequest hbusy
  exact ⟨h.req, h.txLen, h.policy, h.txp, h.txFrame_eq⟩

/-! ### The flags -/

/-- The flags at the end of the decode loop: ERR stays, and either the transaction goes on, with DONE as it was and INV_SEEN
not cleared, or it has ended. -/
theorem RxEnd.flags {s t : State} (h : RxEnd s t) :
    t.err = s.err
      ∧ ((t.phase = s.phase ∧ t.done = s.done ∧ (s.invSeen = true → t.invSeen = true))
        ∨ (t.phase = .idle ∧ t.done = true ∧ t.invSeen = false)) := by
  cases h with
  | wait B seen r _ hr =>
    refine ⟨rfl, .inl ⟨rfl, rfl, fun hs => ?_⟩⟩
    rcases hr with ⟨rfl, -⟩ | ⟨rfl, -⟩
    · exact hs
    · rfl
  | nak _ _ _ _ ht =>
    obtain ⟨B, seen, r, rfl⟩ := ht
    exact ⟨rfl, .inr ⟨rfl, rfl, rfl⟩⟩
  | success _ _ _ _ _ ht =>
    obtain ⟨B, seen, r, rfl⟩ := ht
    exact ⟨rfl, .inr ⟨rfl, rfl, rfl⟩⟩

section Flags
variable {i : Instr} {s t : State}

theorem OpEffect.done_set (h : OpEffect s i t) (hs : s.done = false) (ht : t.done = true) :
    s.phase ≠ .idle ∧ t.phase = .idle := by
  cases h with
  | rxByte b _ hrx hend =>
    rcases hend.flags.2 with ⟨-, hd, -⟩ | ⟨hp, -, -⟩
    · simp [hd, hs] at ht
    · exact ⟨by simp [hrx], hp⟩
  | expire hbusy => exact ⟨hbusy, rfl⟩
  | _ => simp [hs] at ht

theorem OpEffect.done_cleared (h : OpEffect s i t) (hs : s.done = true) (ht : t.done = false) :
    i = .ctrlAck ∨ (i = .ctrlExecute ∧ s.phase = .idle ∧ t.phase = .tx) := by
  cases h with
  | ack => exact .inl rfl
  | execute _ hidle => exact .inr ⟨rfl, hidle, rfl⟩
  | rxByte b _ _ hend =>
    rcases hend.flags.2 with ⟨-, hd, -⟩ | ⟨-, hd, -⟩
    · simp [hd, hs] at ht
    · simp [hd] at ht
  | _ => simp [hs] at ht

theorem OpEffect.err_cleared (h : OpEffect s i t) (hs : s.err = true) (ht : t.err = false) : i = .ctrlAck := by
  cases h with
  | ack => rfl
  | rxByte b _ _ hend => simp [hend.flags.1, hs] at ht
  | _ => simp [hs] at ht

theorem OpEffect.err_set (h : OpEffect s i t) (hs : s.err = false) (ht : t.err = true) :
    (i = .ctrlExecute ∧ t.phase = s.phase) ∨ i = .ctrlReserved ∨ (s.phase ≠ .idle ∧ IsRequestWrite i) := by
  cases h with
  | refuse _ _ _ _ hi => exact hi.imp_left fun he => ⟨he, rfl⟩
  | rxByte b _ _ hend => simp [hend.flags.1, hs] at ht
  | _ => simp [hs] at ht

theorem OpEffect.invSeen_set (h : OpEffect s i t) (hs : s.invSeen = false) (ht : t.invSeen = true) :
    s.phase = .rx ∧ ∃ b, i = .evRxByte b := by
  cases h with
  | rxByte b _ hrx _ => exact ⟨hrx, b, rfl⟩
  | _ => simp [hs] at ht

theorem OpEffect.invSeen_cleared (h : OpEffect s i t) (hs : s.invSeen = true) (ht : t.invSeen = false) :
    (t.phase = .tx ∧ t.txIdx = 0#17 ∧ t.dl = s.timeout
        ∧ ((i = .ctrlExecute ∧ s.phase = .idle ∧ t.attempts = 1#9)
          ∨ (i = .evTick ∧ s.phase ≠ .idle ∧ t.attempts = s.attempts + 1#9)))
      ∨ (s.phase ≠ .idle ∧ t.phase = .idle ∧ t.done = true) := by
  cases h with
  | execute _ hidle => exact .inl ⟨rfl, rfl, rfl, .inl ⟨rfl, hidle, rfl⟩⟩
  | retry hbusy => exact .inl ⟨rfl, rfl, rfl, .inr ⟨rfl, hbusy, rfl⟩⟩
  | expire hbusy => exact .inr ⟨hbusy, rfl, rfl⟩
  | rxByte b _ hrx hend =>
    rcases hend.flags.2 with ⟨-, -, hseen⟩ | ⟨hp, hd, -⟩
    · simp [hseen hs] at ht
    · exact .inr ⟨by simp [hrx], hp, hd⟩
  | _ => simp [hs] at ht

end Flags

/-- Settles O50: one lemma for each flag and direction, each a case split on the effect of the operation. -/
theorem flagsAreSetAndClearedAsStated : Obligations.FlagsAreSetAndClearedAsStated := by
  intro i s t hexec
  have h := exec_effect hexec
  exact ⟨h.done_set, h.done_cleared, h.err_cleared, h.err_set, h.invSeen_set, h.invSeen_cleared⟩

/-! ### The result -/

/-- Settles O51: the effects that change a result field begin in a busy block or end in TX. -/
theorem outcomeStaysUntilTheNextExecute : Obligations.OutcomeStaysUntilTheNextExecute := by
  intro i s t hs ht hexec
  cases exec_effect hexec with
  | execute => simp at ht
  | txAccept htx => simp [hs] at htx
  | rxByte _ _ hrx => simp [hs] at hrx
  | chFail _ _ hactive => simp [hs] at hactive
  | countDown hbusy => exact absurd hs hbusy
  | retry hbusy => exact absurd hs hbusy
  | expire hbusy => exact absurd hs hbusy
  | _ => exact ⟨rfl, rfl, rfl, rfl, rfl, rfl, rfl, rfl, rfl, rfl⟩

end Sys2Proof.Machine
end

section
/-! PROOFS. What a received byte does in RX: RXBUF stays an incomplete frame, and a byte that completes an awaited frame ends
the transaction (41_synchronizer.md R86, R88; 42_sequencer.md R95, R97). -/

namespace Sys2Proof.Machine

theorem exec_evRxByte {s : State} (b : Byte) (hrx : s.phase = .rx) : exec (.evRxByte b) s = .next (rxByte b s) := by
  simp only [exec_eq_next, execNext, if_pos hrx]

theorem RxEnd.decodeFrame_eq {s t : State} (h : RxEnd s t) : decodeFrame t.cfg t.rxBuf = .incomplete := by
  cases h with
  | wait B _ _ hB _ => exact hB
  | nak => exact decodeFrame_nil _
  | success => exact decodeFrame_nil _

/-- Settles O39: the decode loop stops at an incomplete buffer or empties it, and an incomplete buffer is short. -/
theorem rxBufferStaysBounded : Obligations.RxBufferStaysBounded := by
  intro s b hrx
  have hB := (rxByte_rxEnd b s).decodeFrame_eq
  exact ⟨rxByte b s, exec_evRxByte b hrx, hB, decodeFrame_incomplete_length hB⟩

/-- A byte that completes a frame which ends the transaction: the loop makes one turn. -/
theorem rxByte_of_terminal {s t : State} {b : Byte} {f : Frame} {n : Nat}
    (hok : decodeFrame s.cfg (s.rxBuf ++ [b]) = .ok f n) (hterm : classify f (appendRx b s) = (.terminal, t)) :
    rxByte b s = t := by
  simp only [rxByte, rxScan, rxLoop, appendRx_cfg, appendRx_rxBuf, hok, hterm]

/-- The payload of a recorded frame stands at the start of RXP, and the bytes behind it are as they were. -/
theorem rxpByte_of_writeBytes {s t : State} {p : List Byte} (hrxp : t.rxp = Memory.writeBytes s.rxp 0 p)
    (hepoch : t.epoch = s.epoch) :
    (∀ i, i < p.length → t.rxpByte i = byteAt p i) ∧ ∀ i, p.length ≤ i → t.rxpByte i = s.rxpByte i := by
  refine ⟨fun i hi => ?_, fun i hi => ?_⟩
  · rw [State.rxpByte, hrxp, Memory.read?_writeBytes, if_pos (by omega)]
    simp [byteAt, hi]
  · rw [State.rxpByte, State.rxpByte, hrxp, hepoch, Memory.read?_writeBytes, if_neg (by omega)]

/-- Settles O40: the frame is the expected response and no NAK, so `classify` records it and finishes. -/
theorem expectedResponseEndsInSuccess : Obligations.ExpectedResponseEndsInSuccess := by
  intro s b f n hrx hok hrsp hnak
  have hterm : classify f (appendRx b s) = (.terminal, finish .success .none (record f (appendRx b s))) := by
    rw [classify, if_neg (by simpa using hnak), if_pos (by simpa using hrsp)]
  exact ⟨_, (exec_evRxByte b hrx).trans (congrArg _ (rxByte_of_terminal hok hterm)), rfl, rxpByte_of_writeBytes rfl rfl⟩

/-- The reason code of a NAK frame, as the rule counts its payload bytes (42_sequencer.md R95). -/
theorem recordNak_eq (f : Frame) (s : State) :
    recordNak f s =
      { s with
        nakValid := decide (1 ≤ f.payload.length)
        nakCode := if 1 ≤ f.payload.length then byteAt f.payload 0 else 0#8 } := by
  unfold recordNak
  cases f.payload with
  | nil => rfl
  | cons b p => simp

/-- Settles O41: `classify` tests the NAK command first, and looks at neither the policy nor the attempts. -/
theorem nakFrameEndsInNak : Obligations.NakFrameEndsInNak := by
  intro s b f n hrx hok hnak
  have hterm : classify f (appendRx b s) = (.terminal, finish .nak .none (recordNak f (record f (appendRx b s)))) := by
    rw [classify, if_pos (by simpa using hnak)]
  rw [recordNak_eq] at hterm
  exact ⟨_, (exec_evRxByte b hrx).trans (congrArg _ (rxByte_of_terminal hok hterm)), rfl, rxpByte_of_writeBytes rfl rfl⟩

end Sys2Proof.Machine
end

section
/-! PROOFS. Reset, the registers that report the state, refused writes, and the acceptance of a TX byte (10_state.md R22 to
R38, R43; 42_sequencer.md R94). -/

namespace Sys2Proof.Machine

/-! ### Reset -/

theorem stepNext_of_rst {s : State} {c : Cycle} {rest : List Cycle} (hinputs : s.inputs = c :: rest) (hrst : c.rst = true) :
    stepNext s = applyReset { s with inputs := rest } := by
  have hnext : nextCycle s = c := by rw [nextCycle, hinputs, List.headD_cons]
  have htake : takeCycle s = { s with inputs := rest } := by rw [takeCycle, hinputs, List.tail_cons]
  rw [stepNext, hnext, if_pos hrst, htake]

/-- Settles O11: the step is `applyReset`, which looks at no other input of the cycle. -/
theorem resetCycleGivesTheResetState : Obligations.ResetCycleGivesTheResetState := by
  intro s c rest hinputs hrst
  refine ⟨_, (step_eq_next s).trans (congrArg _ (stepNext_of_rst hinputs hrst)), ?_⟩
  simp [Outputs.zero]

/-- EXECUTE in IDLE, of a request that fits, with a TIMEOUT of 0 (43_host_ops.md R130). -/
theorem executeCommand_of_timeout_zero {s : State} (hidle : s.phase = .idle) (hlen : s.txLen.toNat ≤ s.cfg.maxPayload)
    (htime : s.timeout = 0#16) : executeCommand s = setErr .badTimeout s := by
  rcases executeCommand_cases s with ⟨hbusy, -⟩ | ⟨-, hlong, -⟩ | ⟨-, -, -, he⟩ | ⟨-, -, hset, -⟩
  · exact absurd hidle hbusy
  · omega
  · exact he
  · exact absurd htime hset

/-- Settles O12: both states of the statement are the reset state of some dialect, whose registers read 0 but for POLICY, and
whose TIMEOUT fails the last check of EXECUTE (70_reset_and_hazards.md R157). -/
theorem hostViewRightAfterReset : Obligations.HostViewRightAfterReset := by
  intro s r hr
  obtain ⟨cfg, epoch, inputs, rfl⟩ :
      ∃ cfg epoch inputs, r = { State.reset with cfg := cfg, epoch := epoch, inputs := inputs } := by
    rcases hr with rfl | rfl
    · exact ⟨Config.ref, 0, [], rfl⟩
    · exact ⟨s.cfg, s.epoch + 1, s.inputs, rfl⟩
  have htime : ({ State.reset with cfg := cfg, epoch := epoch, inputs := inputs } : State).timeout = 0#16 := by
    simp [State.timeout]
  have hexec := executeCommand_of_timeout_zero rfl (Nat.zero_le _) htime
  refine ⟨?_, ?_, ?_, ?_, ?_, ?_, ?_, ?_, ?_, ?_, by rw [exec_eq_next, execNext, hexec]; rfl⟩
  all_goals
    simp [State.statusWord, State.policyWord, State.txlenWord, State.resultWord, State.nakrsnWord, State.attemptsWord,
      State.deadlineWord, cycleOutputs, State.irqLevel, State.busy, flagWord, Phase.code, ErrCode.code, TxnOutcome.code,
      Reason.code]

/-! ### Register reads -/

/-- A value at bit `p` of a word of the host bus. -/
def fieldAt {w : Nat} (x : BitVec w) (p : Nat) : Word := x.setWidth 32 <<< p

section Fields
variable {w : Nat} (x : BitVec w) {p i n : Nat}

@[simp] theorem getElem_fieldAt (hi : i < 32) : (fieldAt x p)[i] = (decide (p ≤ i) && x.getLsbD (i - p)) := by
  by_cases hp : p ≤ i <;> simp [fieldAt, hp]

/-- A field is read back at its place. -/
@[simp] theorem extractLsb'_fieldAt_self (h : p + w ≤ 32) : (fieldAt x p).extractLsb' p w = x := by
  ext k hk
  have hlt : p + k < 32 := by omega
  simp [fieldAt, hlt, hk]

/-- The bits below a field are 0. -/
@[simp] theorem extractLsb'_fieldAt_below (h : i + n ≤ p) : (fieldAt x p).extractLsb' i n = 0#n := by
  ext k hk
  have hlt : i + k < p := by omega
  simp [fieldAt, hlt]

/-- The bits above a field are 0. -/
@[simp] theorem extractLsb'_fieldAt_above (h : p + w ≤ i) : (fieldAt x p).extractLsb' i n = 0#n := by
  ext k hk
  have hge : w ≤ i + k - p := by omega
  simp [fieldAt, BitVec.getLsbD_of_ge _ _ hge]

end Fields

/-- STATUS as its fields at their places (10_state.md R30). -/
theorem State.statusWord_eq (s : State) :
    s.statusWord = fieldAt (BitVec.ofBool s.busy) 0 ||| fieldAt (BitVec.ofBool s.done) 1 ||| fieldAt (BitVec.ofBool s.err) 2
      ||| fieldAt s.errCode.code 4 ||| fieldAt s.outcome.code 8 ||| fieldAt s.phase.code 12
      ||| fieldAt s.reason.code 16 := by
  simp only [State.statusWord, flagWord, fieldAt, BitVec.shiftLeft_zero]

/-- RESULT as its fields at their places (10_state.md R34). -/
theorem State.resultWord_eq (s : State) :
    s.resultWord = fieldAt s.rspAddr 0 ||| fieldAt s.rspCmdRx 8 ||| fieldAt s.rxLen 16 := by
  simp only [State.resultWord, fieldAt, BitVec.shiftLeft_zero]

/-- NAKRSN as its fields at their places (10_state.md R35). -/
theorem State.nakrsnWord_eq (s : State) :
    s.nakrsnWord = fieldAt s.nakCode 0 ||| fieldAt (BitVec.ofBool s.nakValid) 8 := by
  simp only [State.nakrsnWord, flagWord, fieldAt, BitVec.shiftLeft_zero]

/-- Settles O15: the fields of STATUS stand at disjoint places (`State.statusWord_eq`), so each is read back at its own. -/
theorem readStatusAnswersTheFlags : Obligations.ReadStatusAnswersTheFlags := by
  intro s
  have herrCode : s.statusWord.extractLsb' 4 4 = s.errCode.code := by simp [State.statusWord_eq, BitVec.extractLsb'_or]
  have houtcome : s.statusWord.extractLsb' 8 3 = s.outcome.code := by simp [State.statusWord_eq, BitVec.extractLsb'_or]
  have hphase : s.statusWord.extractLsb' 12 2 = s.phase.code := by simp [State.statusWord_eq, BitVec.extractLsb'_or]
  have hreason : s.statusWord.extractLsb' 16 4 = s.reason.code := by simp [State.statusWord_eq, BitVec.extractLsb'_or]
  refine ⟨s.statusWord, rfl, ?_, ?_, ?_, ?_, herrCode, houtcome, ?_, hphase, ?_, hreason, ?_⟩
  all_goals simp [State.statusWord_eq, BitVec.extractLsb'_or]

/-- Settles O17: RESULT and NAKRSN field by field, as STATUS; the two counters are answered whole. -/
theorem readResultRegisters : Obligations.ReadResultRegisters := by
  intro s
  refine ⟨⟨s.resultWord, rfl, ?_, ?_, ?_⟩, ⟨s.nakrsnWord, rfl, ?_, ?_, ?_⟩, ?_, ?_⟩
  · simp [State.resultWord_eq, BitVec.extractLsb'_or]
  · simp [State.resultWord_eq, BitVec.extractLsb'_or]
  · simp [State.resultWord_eq, BitVec.extractLsb'_or]
  · simp [State.nakrsnWord_eq, BitVec.extractLsb'_or]
  · simp [State.nakrsnWord_eq]
  · simp [State.nakrsnWord_eq, BitVec.extractLsb'_or]
  · rw [BitVec.ofNat_toNat]; rfl
  · rw [BitVec.ofNat_toNat]; rfl

/-! ### Refused writes -/

theorem guardedWrite_of_busy (write : State → State) {s : State} (hbusy : s.phase ≠ .idle) :
    guardedWrite write s = answerWrite (setErr .writeWhileBusy s) := by
  rcases guardedWrite_cases write s with ⟨-, he⟩ | ⟨hidle, -⟩
  · exact he
  · exact absurd hidle hbusy

/-- Settles O22: the four operations are guarded writes. -/
theorem busyWritesAreRefused : Obligations.BusyWritesAreRefused := by
  rintro s d n p w hbusy i (rfl | rfl | rfl | ⟨rfl, hw⟩) <;> rw [exec_eq_next, execNext]
  · rw [guardedWrite_of_busy _ hbusy]; rfl
  · rw [guardedWrite_of_busy _ hbusy]; rfl
  · rw [guardedWrite_of_busy _ hbusy]; rfl
  · rw [if_pos hw, guardedWrite_of_busy _ hbusy]; rfl

/-! ### The acceptance of a TX byte -/

/-- Settles O44: within the frame TXIDX does not wrap, so that its new value is compared with FRAME_LEN as the rule says. -/
theorem txAcceptAdvancesTheFrame : Obligations.TxAcceptAdvancesTheFrame := by
  intro s
  refine ⟨fun htx hidx hlen => ?_, fun htx => by rw [exec_eq_next, execNext, if_neg htx]⟩
  have hnext := txAccept_txIdx_toNat hidx hlen
  refine ⟨txAccept s, by rw [exec_eq_next, execNext, if_pos htx], rfl, hnext, ?_⟩
  rw [txAccept_phase, hnext, htx]

end Sys2Proof.Machine
end

section
/-! PROOFS. Host access decode as the address map has it: every way an access can decode, with the numeric conditions of
30_encoding.md R67 and 20_memory.md R45. -/

namespace Sys2Proof

theorem HostAddr.low_bits_eq_zero_iff (a : HostAddr) : a.extractLsb' 0 2 = 0#2 ↔ a.toNat % 4 = 0 := by
  simp [← BitVec.toNat_inj]

/-- The CSR page has a register at every aligned address below its end. -/
theorem csrAt_eq_none_iff {a : HostAddr} (haligned : a.toNat % 4 = 0) : csrAt a = none ↔ 0x2C ≤ a.toNat := by
  simp [csrAt, Csr.offset, ← BitVec.toNat_inj]
  omega

/-- The operation that an access decodes to, one constructor for each way out of the four steps of 30_encoding.md R67. -/
inductive AccessDecode (cfg : Config) (a : Access) : Instr → Prop where
  | malformed (h : a.hsize ≠ 4 ∨ a.haddr.toNat % 4 ≠ 0) : AccessDecode cfg a (.busError a.hwrite a.haddr a.hsize)
  | register (r : Csr) (hsize : a.hsize = 4) (haligned : a.haddr.toNat % 4 = 0) (hpage : a.haddr.toNat < 0x2C) :
      AccessDecode cfg a (if a.hwrite then decodeCsrWrite a.hwdata r else decodeCsrRead r)
  | txWindow (hsize : a.hsize = 4) (haligned : a.haddr.toNat % 4 = 0)
      (hwindow : 0x10000 ≤ a.haddr.toNat ∧ a.haddr.toNat < 0x10000 + 4 * cfg.windowWords) :
      AccessDecode cfg a (if a.hwrite then .wrTxp (windowIndex a.haddr) a.hwdata else .rdTxp (windowIndex a.haddr))
  | rxWindow (hsize : a.hsize = 4) (haligned : a.haddr.toNat % 4 = 0)
      (hwindow : 0x20000 ≤ a.haddr.toNat ∧ a.haddr.toNat < 0x20000 + 4 * cfg.windowWords) :
      AccessDecode cfg a (if a.hwrite then .wrRxp (windowIndex a.haddr) else .rdRxp (windowIndex a.haddr))
  | unmapped (hsize : a.hsize = 4) (haligned : a.haddr.toNat % 4 = 0) (hpage : 0x2C ≤ a.haddr.toNat)
      (htx : ¬ (0x10000 ≤ a.haddr.toNat ∧ a.haddr.toNat < 0x10000 + 4 * cfg.windowWords))
      (hrx : ¬ (0x20000 ≤ a.haddr.toNat ∧ a.haddr.toNat < 0x20000 + 4 * cfg.windowWords)) :
      AccessDecode cfg a (.busError a.hwrite a.haddr a.hsize)

theorem decodeAccess_decode (cfg : Config) (a : Access) : AccessDecode cfg a (decodeAccess cfg a) := by
  unfold decodeAccess
  split
  case isTrue h =>
    rw [ne_eq (a.haddr.extractLsb' 0 2), HostAddr.low_bits_eq_zero_iff] at h
    exact .malformed h
  case isFalse h =>
    rw [Ne, Ne, HostAddr.low_bits_eq_zero_iff, not_or, not_not, not_not] at h
    obtain ⟨hsize, haligned⟩ := h
    cases hcsr : csrAt a.haddr with
    | some r =>
      have hpage : ¬ 0x2C ≤ a.haddr.toNat := by simp [← csrAt_eq_none_iff haligned, hcsr]
      exact .register r hsize haligned (not_le.mp hpage)
    | none =>
      have hpage := (csrAt_eq_none_iff haligned).mp hcsr
      dsimp only
      split
      case isTrue htx => exact .txWindow hsize haligned htx
      case isFalse htx =>
        split
        case isTrue hrx => exact .rxWindow hsize haligned hrx
        case isFalse hrx => exact .unmapped hsize haligned hpage htx hrx

section
variable {w : Bool} {addr : HostAddr} {size : Nat}

theorem decodeCsrRead_ne_busError (r : Csr) : decodeCsrRead r ≠ .busError w addr size := by
  cases r <;> simp [decodeCsrRead]

theorem decodeCtrl_ne_busError (d : Word) : decodeCtrl d ≠ .busError w addr size := by
  unfold decodeCtrl
  split_ifs <;> simp

theorem decodeCsrWrite_ne_busError (d : Word) (r : Csr) : decodeCsrWrite d r ≠ .busError w addr size := by
  cases r
  case ctrl => exact decodeCtrl_ne_busError d
  all_goals simp [decodeCsrWrite]

end

/-- The access has the wrong size or is misaligned, or its address is past the CSR page and in neither window
(30_encoding.md R67 steps 1 and 4). -/
def Access.Unmapped (cfg : Config) (a : Access) : Prop :=
  a.hsize ≠ 4 ∨ a.haddr.toNat % 4 ≠ 0
    ∨ (0x2C ≤ a.haddr.toNat
      ∧ ¬ (0x10000 ≤ a.haddr.toNat ∧ a.haddr.toNat < 0x10000 + 4 * cfg.windowWords)
      ∧ ¬ (0x20000 ≤ a.haddr.toNat ∧ a.haddr.toNat < 0x20000 + 4 * cfg.windowWords))

/-- What an access decodes to is a bus error just where the access is unmapped, and then with the access's own operands. -/
theorem AccessDecode.busError_iff {cfg : Config} {a : Access} {i : Instr} (h : AccessDecode cfg a i) (w : Bool)
    (addr : HostAddr) (size : Nat) :
    i = .busError w addr size ↔ a.Unmapped cfg ∧ w = a.hwrite ∧ addr = a.haddr ∧ size = a.hsize := by
  unfold Access.Unmapped
  cases h with
  | malformed h => grind
  | register r hsize haligned hpage =>
    have hne : (if a.hwrite then decodeCsrWrite a.hwdata r else decodeCsrRead r) ≠ .busError w addr size := by
      split
      · exact decodeCsrWrite_ne_busError _ _
      · exact decodeCsrRead_ne_busError _
    grind
  | txWindow hsize haligned hwindow => grind
  | rxWindow hsize haligned hwindow => grind
  | unmapped hsize haligned hpage htx hrx => grind

/-- Settles O5: of the five ways out of the decode steps, two are a bus error and three are not. -/
theorem busErrorExactlyWhereUnmapped : Obligations.BusErrorExactlyWhereUnmapped := by
  intro cfg a
  have h := (decodeAccess_decode cfg a).busError_iff
  exact ⟨(h _ _ _).trans (and_iff_left ⟨rfl, rfl, rfl⟩), fun w addr size he => ((h w addr size).mp he).2⟩

end Sys2Proof
end

section
/-! PROOFS. The payload windows on the host bus, and bus errors (20_memory.md R46; 43_host_ops.md R121, R122, R126;
60_exceptions.md R145). -/

namespace Sys2Proof.Machine

/-! ### The bytes of a window word -/

/-- Byte `k` of a window word is the window's byte `4w + k` (20_memory.md R46). -/
theorem extractLsb'_readWindow (cfg : Config) (mem : Nat → Byte) (w : Nat) {k : Nat} (hk : k < 4) :
    (readWindow cfg mem w).extractLsb' (8 * k) 8 = windowByte cfg mem (4 * w + k) := by
  rw [readWindow, wordOfBytes]
  match k with
  | 0 => exact BitVec.extractLsb'_append_eq_right
  | 1 =>
    rw [BitVec.extractLsb'_append_eq_of_le (by decide)]
    exact BitVec.extractLsb'_append_eq_right
  | 2 =>
    rw [BitVec.extractLsb'_append_eq_of_le (by decide), BitVec.extractLsb'_append_eq_of_le (by decide)]
    exact BitVec.extractLsb'_append_eq_right
  | 3 =>
    rw [BitVec.extractLsb'_append_eq_of_le (by decide), BitVec.extractLsb'_append_eq_of_le (by decide)]
    exact BitVec.extractLsb'_append_eq_left

theorem readPayloadWindow_of_lt {s : State} {w : BitVec 14} (mem : Nat → Byte) (hw : w.toNat < s.cfg.windowWords) :
    readPayloadWindow mem w s = answerRead (readWindow s.cfg mem w.toNat) s := if_pos hw

theorem readPayloadWindow_of_ge {s : State} {w : BitVec 14} (mem : Nat → Byte) (hw : s.cfg.windowWords ≤ w.toNat) :
    readPayloadWindow mem w s = busErrorAnswer false s := if_neg (not_lt.mpr hw)

/-- Settles O18: both windows are read by `readPayloadWindow`, and `extractLsb'_readWindow` says what each byte is. -/
theorem readPayloadWindows : Obligations.ReadPayloadWindows := by
  intro s w
  have hbytes (mem : Nat → Byte) (k : Nat) (hk : k < 4) := extractLsb'_readWindow s.cfg mem w.toNat hk
  refine ⟨fun hw => ⟨⟨_, ?_, hbytes s.txpByte⟩, ⟨_, ?_, hbytes s.rxpByte⟩⟩, fun hw => ⟨?_, ?_⟩⟩
  · rw [exec_eq_next, execNext, readPayloadWindow_of_lt _ hw]; rfl
  · rw [exec_eq_next, execNext, readPayloadWindow_of_lt _ hw]; rfl
  · rw [exec_eq_next, execNext, readPayloadWindow_of_ge _ hw]; rfl
  · rw [exec_eq_next, execNext, readPayloadWindow_of_ge _ hw]; rfl

/-! ### Window writes and bus errors -/

theorem guardedWrite_of_idle (write : State → State) {s : State} (hidle : s.phase = .idle) :
    guardedWrite write s = answerWrite (write s) := by
  rcases guardedWrite_cases write s with ⟨hbusy, -⟩ | ⟨-, he⟩
  · exact absurd hidle hbusy
  · exact he

/-- The byte that index `i` of TXP reads as, after a host word was written to it. -/
theorem txpByte_of_writeWindow {s t : State} {w : Nat} {d : Word} (htxp : t.txp = writeWindow s.cfg s.txp w d)
    (hepoch : t.epoch = s.epoch) (i : Nat) :
    t.txpByte i =
      if 4 * w ≤ i ∧ i < 4 * w + 4 ∧ i < s.cfg.maxPayload then wordByte d (i - 4 * w) else s.txpByte i := by
  rw [State.txpByte, State.txpByte, htxp, hepoch, read?_writeWindow]
  split <;> rfl

/-- Settles O21: the guarded write goes through, and `read?_writeWindow` says what every index of TXP then holds. -/
theorem idleWindowWriteStoresItsBytes : Obligations.IdleWindowWriteStoresItsBytes := by
  intro s w d hidle hw
  obtain ⟨t, hexec, ht⟩ : ∃ t, exec (.wrTxp w d) s = .next t
      ∧ t = { s with txp := writeWindow s.cfg s.txp w.toNat d, out := { s.out with busErr := false } } :=
    ⟨_, by rw [exec_eq_next, execNext, if_pos hw, guardedWrite_of_idle _ hidle]; rfl, rfl⟩
  have hbyte := txpByte_of_writeWindow (s := s) (t := t) (w := w.toNat) (d := d) (by rw [ht]) (by rw [ht])
  refine ⟨t, hexec, by rw [ht], fun i hlo hhi hmax => ?_, fun i hout => ?_, fun i => by rw [ht]; rfl⟩
  · rw [hbyte, if_pos ⟨hlo, hhi, hmax⟩, wordByte]
  · rw [hbyte, if_neg hout]

/-- Settles O24: the answer of each of the operations is `busErrorAnswer`. -/
theorem busErrorWritesNoState : Obligations.BusErrorWritesNoState := by
  intro s addr size
  refine ⟨rfl, rfl, fun w d hw => ⟨?_, ?_⟩⟩
  · rw [exec_eq_next, execNext, if_neg (not_lt.mpr hw)]; rfl
  · rw [exec_eq_next, execNext, if_neg (not_lt.mpr hw)]; rfl

end Sys2Proof.Machine
end

section
/-! PROOFS. A host read disturbs nothing: it replaces outputs of its cycle, which the events neither look at nor change
(20_memory.md R52; 43_host_ops.md R108; 44_cycle.md R135). -/

namespace Sys2Proof.Machine

/-! ### The events do not look at the outputs -/

/-- The channel and time-base events (30_encoding.md R71). -/
inductive IsEvent : Instr → Prop where
  | txAccept : IsEvent .evTxAccept
  | rxByte (b : Byte) : IsEvent (.evRxByte b)
  | chClosed : IsEvent .evChClosed
  | chError : IsEvent .evChError
  | tick : IsEvent .evTick

theorem isEvent_of_mem_decodeEvents {iv : BitVec 13} {i : Instr} (h : i ∈ decodeEvents iv) : IsEvent i := by
  simp only [decodeEvents, List.mem_append, List.mem_ite_nil_right, List.mem_singleton] at h
  rcases h with (((⟨-, rfl⟩ | ⟨-, rfl⟩) | ⟨-, rfl⟩) | ⟨-, rfl⟩) | ⟨-, rfl⟩
  · exact .txAccept
  · exact .rxByte _
  · exact .chClosed
  · exact .chError
  · exact .tick

/-- The state `s` with the outputs `o`. -/
def withOutputs (o : Outputs) (s : State) : State := { s with out := o }

section
variable (o : Outputs) (s : State)

@[simp] theorem withOutputs_cfg : (withOutputs o s).cfg = s.cfg := rfl
@[simp] theorem withOutputs_phase : (withOutputs o s).phase = s.phase := rfl
@[simp] theorem withOutputs_rxBuf : (withOutputs o s).rxBuf = s.rxBuf := rfl
@[simp] theorem withOutputs_reqNakCmd : (withOutputs o s).reqNakCmd = s.reqNakCmd := rfl
@[simp] theorem withOutputs_reqRspCmd : (withOutputs o s).reqRspCmd = s.reqRspCmd := rfl
@[simp] theorem withOutputs_out : (withOutputs o s).out = o := rfl
@[simp] theorem withOutputs_self : withOutputs s.out s = s := rfl

theorem fail_withOutputs (K : TxnOutcome) (r : Reason) : fail K r (withOutputs o s) = withOutputs o (fail K r s) := by
  unfold fail
  rw [apply_ite (withOutputs o)]
  rfl

theorem tick_withOutputs (hbusy : s.phase ≠ .idle) : tick (withOutputs o s) = withOutputs o (tick s) := by
  unfold tick
  rw [apply_ite (withOutputs o), expire_eq (countDown s) hbusy, ← fail_withOutputs,
    expire_eq (countDown (withOutputs o s)) hbusy]
  rfl

theorem classify_withOutputs (f : Frame) :
    classify f (withOutputs o s) = ((classify f s).1, withOutputs o (classify f s).2) := by
  rcases classify_cases f s with ⟨hnak, he⟩ | ⟨hnak, hrsp, he⟩ | ⟨hnak, hrsp, he⟩ <;> rw [he]
  · simp [classify, hnak]; rfl
  · rw [hrsp] at hnak
    simp [classify, hnak, hrsp]; rfl
  · simp [classify, hnak, hrsp]; rfl

theorem chFailIfActive_withOutputs (r : Reason) :
    chFailIfActive r (withOutputs o s) = withOutputs o (chFailIfActive r s) := by
  simp only [chFailIfActive, withOutputs_phase]
  cases s.phase <;> rfl

end

theorem rxLoop_withOutputs (fuel : Nat) (o : Outputs) (s : State) :
    rxLoop fuel (withOutputs o s) = withOutputs o (rxLoop fuel s) := by
  induction fuel generalizing s with
  | zero => rfl
  | succ fuel ih =>
    cases hd : decodeFrame s.cfg s.rxBuf with
    | incomplete => simp only [rxLoop, withOutputs_cfg, withOutputs_rxBuf, hd]
    | corrupt r k =>
      cases r <;> simp only [rxLoop, withOutputs_cfg, withOutputs_rxBuf, hd]
      case noStart => exact ih (dropRx k s)
      case length => exact ih (dropRx k (markInvalid .length s))
      case checksum => exact ih (dropRx k (markInvalid .checksum s))
    | ok f n =>
      simp only [rxLoop, withOutputs_cfg, withOutputs_rxBuf, hd, classify_withOutputs]
      obtain ⟨verdict, t⟩ := classify f s
      cases verdict with
      | terminal => rfl
      | goOn => exact ih (dropRx n t)

theorem execNext_withOutputs {i : Instr} (hi : IsEvent i) (o : Outputs) (s : State) :
    execNext i (withOutputs o s) = withOutputs o (execNext i s) := by
  cases hi with
  | txAccept =>
    simp only [execNext, withOutputs_phase, apply_ite (withOutputs o)]
    rfl
  | rxByte b =>
    simp only [execNext, withOutputs_phase, apply_ite (withOutputs o)]
    rw [rxByte, rxByte, rxScan, rxScan, ← rxLoop_withOutputs]
    rfl
  | chClosed => exact chFailIfActive_withOutputs o s .closed
  | chError => exact chFailIfActive_withOutputs o s .ioError
  | tick =>
    by_cases hidle : s.phase = .idle
    · simp [execNext, hidle]
    · simp [execNext, hidle, tick_withOutputs o s hidle]

/-- A run of events neither looks at the outputs nor changes them. -/
theorem execNextAll_withOutputs {is : List Instr} (his : ∀ i ∈ is, IsEvent i) (o : Outputs) (s : State) :
    execNextAll is (withOutputs o s) = withOutputs o (execNextAll is s) := by
  induction is generalizing s with
  | nil => rfl
  | cons i is ih =>
    obtain ⟨hi, his⟩ := List.forall_mem_cons.mp his
    calc execNextAll is (execNext i (withOutputs o s))
      _ = execNextAll is (withOutputs o (execNext i s)) := by rw [execNext_withOutputs hi]
      _ = withOutputs o (execNextAll is (execNext i s)) := ih his _

theorem execNextAll_out {is : List Instr} (his : ∀ i ∈ is, IsEvent i) (s : State) : (execNextAll is s).out = s.out := by
  have h := execNextAll_withOutputs his s.out s
  rw [withOutputs_self] at h
  rw [h, withOutputs_out]

/-! ### The host read -/

/-- A host read, of whatever address and size, answers on HRDATA and bus_err and does nothing else (43_host_ops.md R108,
60_exceptions.md R145). -/
theorem execNext_of_read {cfg : Config} {a : Access} {i : Instr} (h : AccessDecode cfg a i)
    (hread : a.hwrite = false) (s : State) :
    ∃ v e, execNext i s = withOutputs { s.out with hrdata := v, busErr := e } s := by
  have hwindow : ∀ (mem : Nat → Byte) (w : BitVec 14),
      ∃ v e, readPayloadWindow mem w s = withOutputs { s.out with hrdata := v, busErr := e } s := by
    intro mem w
    rcases lt_or_ge w.toNat s.cfg.windowWords with hw | hw
    · exact ⟨_, _, readPayloadWindow_of_lt mem hw⟩
    · exact ⟨_, _, readPayloadWindow_of_ge mem hw⟩
  cases h <;> simp only [hread]
  case malformed => exact ⟨_, _, rfl⟩
  case register r _ _ _ => cases r <;> exact ⟨_, _, rfl⟩
  case txWindow => exact hwindow _ _
  case rxWindow => exact hwindow _ _
  case unmapped => exact ⟨_, _, rfl⟩

theorem cycleOps_of_read {cfg : Config} {c : Cycle} {a : Access} (haccess : c.access = some a) (hread : a.hwrite = false) :
    cycleOps cfg c = decodeAccess cfg a :: decodeEvents c.iv := by
  simp [cycleOps, haccess, hread]

theorem stepNext_of_not_rst {s : State} {c : Cycle} {rest : List Cycle} (hinputs : s.inputs = c :: rest)
    (hrst : c.rst = false) :
    stepNext s = execNextAll (cycleOps s.cfg c) (beginCycle { s with inputs := rest }) := by
  have hnext : nextCycle s = c := by rw [nextCycle, hinputs, List.headD_cons]
  have htake : takeCycle s = { s with inputs := rest } := by rw [takeCycle, hinputs, List.tail_cons]
  rw [stepNext, hnext, if_neg (by simp [hrst]), htake]

/-- A host read before the events of its cycle only replaces HRDATA and bus_err at the end of them. -/
theorem execNextAll_read_cons {cfg : Config} {a : Access} {is : List Instr} (hread : a.hwrite = false)
    (his : ∀ i ∈ is, IsEvent i) (s : State) :
    ∃ v e, execNextAll (decodeAccess cfg a :: is) s =
      withOutputs { s.out with hrdata := v, busErr := e } (execNextAll is s) := by
  obtain ⟨v, e, he⟩ := execNext_of_read (decodeAccess_decode cfg a) hread s
  refine ⟨v, e, ?_⟩
  calc execNextAll is (execNext (decodeAccess cfg a) s)
    _ = execNextAll is (withOutputs { s.out with hrdata := v, busErr := e } s) := by rw [he]
    _ = _ := execNextAll_withOutputs his _ s

/-- Settles O19: the read only replaces outputs that the cycle began with, and the events, which neither look at them nor
change them, carry the replacement to the end of the cycle; a reset cycle does not look at the access. -/
theorem hostReadDisturbsNothing : Obligations.HostReadDisturbsNothing := by
  intro s t u c a haccess hread ht hu
  rw [step_next_iff] at ht hu
  cases hrst : c.rst with
  | true =>
    rw [stepNext_of_rst rfl hrst] at ht
    rw [stepNext_of_rst (c := { c with access := none }) rfl hrst] at hu
    rw [ht, hu]
    rfl
  | false =>
    rw [stepNext_of_not_rst rfl hrst, cycleOps_of_read haccess hread] at ht
    rw [stepNext_of_not_rst (c := { c with access := none }) rfl hrst] at hu
    have hevents : ∀ i ∈ decodeEvents c.iv, IsEvent i := fun i => isEvent_of_mem_decodeEvents
    obtain ⟨v, e, hcycle⟩ := execNextAll_read_cons (cfg := s.cfg) hread hevents (beginCycle { s with inputs := [] })
    have htu : t = withOutputs { cycleOutputs s with hrdata := v, busErr := e } u := by
      rw [ht, hu]
      exact hcycle
    have hout : u.out = cycleOutputs s := by
      rw [hu]
      exact execNextAll_out hevents _
    rw [htu]
    calc withOutputs (cycleOutputs s) u
      _ = withOutputs u.out u := by rw [hout]
      _ = u := withOutputs_self u

end Sys2Proof.Machine
end

section
/-! PROOFS. The rows of host accesses as a relation between an access and its operation, which decode agrees with in both
directions (30_encoding.md R67, R68, R72; 20_memory.md R45). -/

namespace Sys2Proof

/-! ### Addresses of the registers and of the windows -/

theorem csrAt_offset (r : Csr) : csrAt r.offset = some r := by
  cases r <;> rfl

theorem offset_of_csrAt_eq_some {a : HostAddr} {r : Csr} (h : csrAt a = some r) : r.offset = a :=
  eq_of_beq (List.find?_some (p := fun r : Csr => r.offset == a) h)

theorem exists_offset_of_csrPage {a : HostAddr} (haligned : a.toNat % 4 = 0) (hpage : a.toNat < 0x2C) :
    ∃ r : Csr, r.offset = a := by
  have hsome : csrAt a ≠ none := by
    rw [Ne, csrAt_eq_none_iff haligned]
    omega
  obtain ⟨r, hr⟩ := Option.ne_none_iff_exists'.mp hsome
  exact ⟨r, offset_of_csrAt_eq_some hr⟩

theorem toNat_windowAddr (base : BitVec 2) (w : BitVec 14) :
    (windowAddr base w).toNat = 0x10000 * base.toNat + 4 * w.toNat := by
  rw [windowAddr, BitVec.toNat_append, BitVec.toNat_append, ← Nat.shiftLeft_add_eq_or_of_lt w.isLt,
    ← Nat.shiftLeft_add_eq_or_of_lt (0#2).isLt, Nat.shiftLeft_eq, Nat.shiftLeft_eq, BitVec.toNat_zero]
  omega

theorem toNat_windowIndex (a : HostAddr) : (windowIndex a).toNat = a.toNat / 4 % 16384 := by
  simp [windowIndex, Nat.shiftRight_eq_div_pow]

@[simp] theorem windowIndex_windowAddr (base : BitVec 2) (w : BitVec 14) : windowIndex (windowAddr base w) = w := by
  apply BitVec.eq_of_toNat_eq
  rw [toNat_windowIndex, toNat_windowAddr]
  omega

/-- A window is no longer than 2^14 words (`Config.windowWords_le`), so that HADDR[15:2] names each of them. -/
theorem exists_windowAddr (base : BitVec 2) {a : HostAddr} {words : Nat} (haligned : a.toNat % 4 = 0)
    (hwords : words ≤ 16384) (hge : 0x10000 * base.toNat ≤ a.toNat) (hlt : a.toNat < 0x10000 * base.toNat + 4 * words) :
    ∃ w : BitVec 14, w.toNat < words ∧ windowAddr base w = a := by
  have hindex := toNat_windowIndex a
  refine ⟨windowIndex a, by omega, BitVec.eq_of_toNat_eq ?_⟩
  rw [toNat_windowAddr]
  omega

/-! ### The rows -/

/-- The host accesses of each row of spec/opcode_table.json with their operation: the registers, the two windows, and what
the address map leaves (30_encoding.md R67, R72). -/
inductive AccessRow (cfg : Config) : Access → Instr → Prop where
  | readRegister (r : Csr) (d : Word) : AccessRow cfg ⟨false, r.offset, 4, d⟩ (decodeCsrRead r)
  | writeRegister (r : Csr) (d : Word) : AccessRow cfg ⟨true, r.offset, 4, d⟩ (decodeCsrWrite d r)
  | readTxp (w : BitVec 14) (d : Word) (hw : w.toNat < cfg.windowWords) :
      AccessRow cfg ⟨false, windowAddr 1#2 w, 4, d⟩ (.rdTxp w)
  | writeTxp (w : BitVec 14) (d : Word) (hw : w.toNat < cfg.windowWords) :
      AccessRow cfg ⟨true, windowAddr 1#2 w, 4, d⟩ (.wrTxp w d)
  | readRxp (w : BitVec 14) (d : Word) (hw : w.toNat < cfg.windowWords) :
      AccessRow cfg ⟨false, windowAddr 2#2 w, 4, d⟩ (.rdRxp w)
  | writeRxp (w : BitVec 14) (d : Word) (hw : w.toNat < cfg.windowWords) :
      AccessRow cfg ⟨true, windowAddr 2#2 w, 4, d⟩ (.wrRxp w)
  | busError (a : Access) (h : a.Unmapped cfg) : AccessRow cfg a (.busError a.hwrite a.haddr a.hsize)

section
variable {cfg : Config} (hwrite : Bool) (d : Word) {w : BitVec 14}

theorem decodeAccess_register (r : Csr) :
    decodeAccess cfg ⟨hwrite, r.offset, 4, d⟩ = if hwrite then decodeCsrWrite d r else decodeCsrRead r := by
  have haligned : r.offset.extractLsb' 0 2 = 0#2 := by cases r <;> rfl
  simp [decodeAccess, csrAt_offset, haligned]

theorem decodeAccess_txWindow (hw : w.toNat < cfg.windowWords) :
    decodeAccess cfg ⟨hwrite, windowAddr 1#2 w, 4, d⟩ = if hwrite then .wrTxp w d else .rdTxp w := by
  have haddr : (windowAddr 1#2 w).toNat = 0x10000 + 4 * w.toNat := toNat_windowAddr 1#2 w
  have hlast := w.isLt
  have hdecode := decodeAccess_decode cfg ⟨hwrite, windowAddr 1#2 w, 4, d⟩
  generalize decodeAccess cfg _ = i at hdecode
  cases hdecode with
  | txWindow => simp only [windowIndex_windowAddr]
  | malformed | register | rxWindow | unmapped =>
    dsimp only at *
    omega

theorem decodeAccess_rxWindow (hw : w.toNat < cfg.windowWords) :
    decodeAccess cfg ⟨hwrite, windowAddr 2#2 w, 4, d⟩ = if hwrite then .wrRxp w else .rdRxp w := by
  have haddr : (windowAddr 2#2 w).toNat = 0x20000 + 4 * w.toNat := toNat_windowAddr 2#2 w
  have hwords := cfg.windowWords_le
  have hdecode := decodeAccess_decode cfg ⟨hwrite, windowAddr 2#2 w, 4, d⟩
  generalize decodeAccess cfg _ = i at hdecode
  cases hdecode with
  | rxWindow => simp only [windowIndex_windowAddr]
  | malformed | register | txWindow | unmapped =>
    dsimp only at *
    omega

end

theorem decodeAccess_unmapped {cfg : Config} {a : Access} (h : a.Unmapped cfg) :
    decodeAccess cfg a = .busError a.hwrite a.haddr a.hsize :=
  ((decodeAccess_decode cfg a).busError_iff _ _ _).mpr ⟨h, rfl, rfl, rfl⟩

theorem AccessRow.decodeAccess_eq {cfg : Config} {a : Access} {i : Instr} (h : AccessRow cfg a i) :
    decodeAccess cfg a = i := by
  cases h with
  | readRegister r d => exact decodeAccess_register false d r
  | writeRegister r d => exact decodeAccess_register true d r
  | readTxp w d hw => exact decodeAccess_txWindow false d hw
  | writeTxp w d hw => exact decodeAccess_txWindow true d hw
  | readRxp w d hw => exact decodeAccess_rxWindow false d hw
  | writeRxp w d hw => exact decodeAccess_rxWindow true d hw
  | busError _ hun => exact decodeAccess_unmapped hun

/-- Every access stands in a row: it is unmapped, or its address is a register's or a window word's. -/
theorem exists_accessRow (cfg : Config) (a : Access) : ∃ i, AccessRow cfg a i := by
  by_cases hun : a.Unmapped cfg
  · exact ⟨_, .busError a hun⟩
  obtain ⟨hwrite, addr, size, d⟩ := a
  rw [Access.Unmapped, not_or, not_or, not_not, not_not, not_and, not_and, not_not] at hun
  obtain ⟨rfl, haligned, hmap⟩ := hun
  rcases lt_or_ge addr.toNat 0x2C with hpage | hpage
  · obtain ⟨r, rfl⟩ := exists_offset_of_csrPage haligned hpage
    cases hwrite
    · exact ⟨_, .readRegister r d⟩
    · exact ⟨_, .writeRegister r d⟩
  by_cases htx : 0x10000 ≤ addr.toNat ∧ addr.toNat < 0x10000 + 4 * cfg.windowWords
  · obtain ⟨w, hw, rfl⟩ := exists_windowAddr 1#2 haligned cfg.windowWords_le htx.1 htx.2
    cases hwrite
    · exact ⟨_, .readTxp w d hw⟩
    · exact ⟨_, .writeTxp w d hw⟩
  · obtain ⟨hge, hlt⟩ := hmap hpage htx
    obtain ⟨w, hw, rfl⟩ := exists_windowAddr 2#2 haligned cfg.windowWords_le hge hlt
    cases hwrite
    · exact ⟨_, .readRxp w d hw⟩
    · exact ⟨_, .writeRxp w d hw⟩

/-- Host access decode reads the rows. -/
theorem accessRow_iff {cfg : Config} {a : Access} {i : Instr} : AccessRow cfg a i ↔ decodeAccess cfg a = i := by
  refine ⟨AccessRow.decodeAccess_eq, ?_⟩
  rintro rfl
  obtain ⟨i, hrow⟩ := exists_accessRow cfg a
  rwa [hrow.decodeAccess_eq]

/-! ### Keys and input vectors -/

section
variable (hwrite : Bool) (addr : HostAddr) (d : Word)

/-- The bits of a key: HWDATA, HADDR, the bit that is always 0, HWRITE (30_encoding.md R66). -/
theorem getLsbD_accessKey (k : Nat) : (accessKey hwrite addr d).getLsbD k
    = if k < 32 then d.getLsbD k else if k < 50 then addr.getLsbD (k - 32) else decide (k = 51) && hwrite := by
  refine (BitVec.getLsbD_append (x := BitVec.ofBool hwrite ++ 0#1 ++ addr) (y := d) (i := k)).trans ?_
  rw [BitVec.getLsbD_append, BitVec.getLsbD_append]
  grind

/-- The access of an access's key is the access (30_encoding.md R66). -/
theorem accessOfKey_accessKey (hsize : Nat) :
    accessOfKey hsize (accessKey hwrite addr d) = ⟨hwrite, addr, hsize, d⟩ := by
  have hw : (accessKey hwrite addr d).getLsbD 51 = hwrite := getLsbD_accessKey hwrite addr d 51
  have ha : (accessKey hwrite addr d).extractLsb' 32 18 = addr := by
    ext k hk
    have hlt : 32 + k < 50 := by omega
    simp [getLsbD_accessKey, hk, hlt]
  have hd : (accessKey hwrite addr d).extractLsb' 0 32 = d := by
    ext k hk
    simp [getLsbD_accessKey, hk]
  rw [accessOfKey, hw, ha, hd]

end

/-- A key with bit 18 of A clear is the key of its access. -/
theorem accessKey_accessOfKey (hsize : Nat) {key : BitVec 52} (hkey : key.getLsbD 50 = false) :
    accessKey (accessOfKey hsize key).hwrite (accessOfKey hsize key).haddr (accessOfKey hsize key).hwdata = key := by
  apply BitVec.eq_of_getLsbD_eq
  intro k hk
  rw [getLsbD_accessKey, accessOfKey]
  grind

theorem decode_accessKey (cfg : Config) (hwrite : Bool) (addr : HostAddr) (hsize : Nat) (d : Word) :
    decode cfg (.hbus hsize (accessKey hwrite addr d)) = .ok (decodeAccess cfg ⟨hwrite, addr, hsize, d⟩) := by
  have hreserved : (accessKey hwrite addr d).getLsbD 50 = false := getLsbD_accessKey hwrite addr d 50
  rw [decode, hreserved, accessOfKey_accessKey]
  rfl

/-- What decodes to an operation: a host access in one of its rows, or an input vector that carries it alone. -/
theorem decode_eq_ok {cfg : Config} {e : Encoding} {i : Instr} (h : decode cfg e = .ok i) :
    (∃ a, e = .hbus a.hsize (accessKey a.hwrite a.haddr a.hwdata) ∧ AccessRow cfg a i)
      ∨ ∃ v, e = .iv v ∧ decodeEvents v = [i] := by
  cases e with
  | hbus hsize key =>
    rw [decode] at h
    split at h
    case isTrue => cases h
    case isFalse hkey =>
      have hkey' := accessKey_accessOfKey hsize (Bool.eq_false_of_not_eq_true hkey)
      exact .inl ⟨accessOfKey hsize key, by rw [hkey']; rfl, accessRow_iff.mpr (Except.ok.inj h)⟩
  | iv v =>
    rw [decode] at h
    split at h
    case h_2 j hv => exact .inr ⟨v, rfl, hv.trans (by rw [Except.ok.inj h])⟩
    all_goals cases h

end Sys2Proof
end

section
/-! PROOFS. Encoding and decoding: the round trip, and what the decoder gives, from the rows of host accesses and the bits of
the events (30_encoding.md R66, R67, R68, R71, R72). -/

namespace Sys2Proof.Machine

open Sys2Proof.Laws.EncodeFitsTableRow (accessKey_and_addressMask accessKey_and_windowMask)

/-- Settles O1, each word by evaluation. -/
theorem tableWordsDecodeToTheirOperations : Obligations.TableWordsDecodeToTheirOperations :=
  ⟨rfl, rfl, rfl, rfl, rfl, rfl, rfl, rfl, rfl, rfl, rfl, rfl⟩

/-! ### Decode of encode -/

/-- The address map of `WellFormed` and that of the decoder agree (20_memory.md R45). -/
theorem isMapped_eq_false_iff (cfg : Config) (a : Access) :
    isMapped cfg a.haddr a.hsize = false ↔ a.Unmapped cfg := by
  simp only [isMapped, inCsrPage, inPayloadWindow, Access.Unmapped, ← Bool.not_eq_true, Bool.and_eq_true, Bool.or_eq_true,
    beq_iff_eq, decide_eq_true_eq]
  omega

theorem wellFormed_busError_iff (cfg : Config) (a : Access) (hwrite : Bool) :
    WellFormed cfg (.busError hwrite a.haddr a.hsize) = true ↔ a.Unmapped cfg := by
  rw [WellFormed, Bool.not_eq_true', isMapped_eq_false_iff]

section
variable {cfg : Config}

theorem decode_of_accessRow {hwrite : Bool} {addr : HostAddr} {hsize : Nat} {d : Word} {i : Instr}
    (h : AccessRow cfg ⟨hwrite, addr, hsize, d⟩ i) : decode cfg (.hbus hsize (accessKey hwrite addr d)) = .ok i := by
  rw [decode_accessKey, h.decodeAccess_eq]

theorem decode_encodeRead (r : Csr) : decode cfg (encodeRead r) = .ok (decodeCsrRead r) :=
  decode_of_accessRow (.readRegister r 0#32)

theorem decode_encodeWrite (r : Csr) (d : Word) : decode cfg (encodeWrite r d) = .ok (decodeCsrWrite d r) :=
  decode_of_accessRow (.writeRegister r d)

/-- An operand that is narrower than HWDATA is read back from its low bits. -/
theorem extractLsb'_zero_setWidth {n : Nat} (x : BitVec n) (hn : n ≤ 32) : (x.setWidth 32).extractLsb' 0 n = x := by
  ext k hk
  have hlt : k < 32 := by omega
  simp [hk, hlt]

/-- The vector of a byte in RX: bit 1 is set, and the bits above it are the byte's (30_encoding.md R71). -/
theorem getLsbD_rxByteVector (b : Byte) (k : Nat) : ((0#3 ++ b ++ 0#2 : BitVec 13) ||| 0x0002#13).getLsbD k
    = if k < 2 then decide (k = 1) else b.getLsbD (k - 2) := by
  have happend : (0#3 ++ b ++ 0#2 : BitVec 13).getLsbD k = if k < 2 then false else b.getLsbD (k - 2) := by
    refine (BitVec.getLsbD_append (x := 0#3 ++ b) (y := 0#2) (i := k)).trans ?_
    rw [BitVec.getLsbD_append]
    grind
  have hvalid : (0x0002#13).getLsbD k = decide (1 = k) := BitVec.getLsbD_twoPow 1 k
  rw [BitVec.getLsbD_or, happend, hvalid]
  grind

theorem decode_encode_evRxByte (b : Byte) : decode cfg (encode (.evRxByte b)) = .ok (.evRxByte b) := by
  have hdata : ((0#3 ++ b ++ 0#2 : BitVec 13) ||| 0x0002#13).extractLsb' 2 8 = b := by
    ext k hk
    rw [BitVec.getElem_extractLsb', getLsbD_rxByteVector]
    grind
  have hevents : decodeEvents ((0#3 ++ b ++ 0#2 : BitVec 13) ||| 0x0002#13) = [.evRxByte b] := by
    simp only [decodeEvents, getLsbD_rxByteVector, hdata]
    simp
  rw [encode, decode, hevents]

end

/-- Settles O2: the encoding of an operation on the host bus is an access of its row (`AccessRow`), and that of an event has
the bit of that event only. -/
theorem encodedOperationDecodesToItself : Obligations.EncodedOperationDecodesToItself := by
  intro cfg i hwf
  cases i with
  | ctrlNop | ctrlExecute | ctrlAck | ctrlReserved => exact decode_encodeWrite .ctrl _
  | rdCfg0 => exact decode_encodeRead .cfg0
  | rdCfg1 => exact decode_encodeRead .cfg1
  | rdCtrl => exact decode_encodeRead .ctrl
  | rdStatus => exact decode_encodeRead .status
  | rdReq => exact decode_encodeRead .req
  | rdTxlen => exact decode_encodeRead .txlen
  | rdPolicy => exact decode_encodeRead .policy
  | rdResult => exact decode_encodeRead .result
  | rdNakrsn => exact decode_encodeRead .nakrsn
  | rdAttempts => exact decode_encodeRead .attempts
  | rdDeadline => exact decode_encodeRead .deadline
  | rdTxp w => exact decode_of_accessRow (.readTxp w 0#32 (of_decide_eq_true hwf))
  | rdRxp w => exact decode_of_accessRow (.readRxp w 0#32 (of_decide_eq_true hwf))
  | wrReq d => exact decode_encodeWrite .req d
  | wrTxlen d => rw [encode, decode_encodeWrite, decodeCsrWrite, extractLsb'_zero_setWidth d (by decide)]
  | wrPolicy d => rw [encode, decode_encodeWrite, decodeCsrWrite, extractLsb'_zero_setWidth d (by decide)]
  | wrTxp w d => exact decode_of_accessRow (.writeTxp w d (of_decide_eq_true hwf))
  | wrRoCfg0 => exact decode_encodeWrite .cfg0 0#32
  | wrRoCfg1 => exact decode_encodeWrite .cfg1 0#32
  | wrRoStatus => exact decode_encodeWrite .status 0#32
  | wrRoResult => exact decode_encodeWrite .result 0#32
  | wrRoNakrsn => exact decode_encodeWrite .nakrsn 0#32
  | wrRoAttempts => exact decode_encodeWrite .attempts 0#32
  | wrRoDeadline => exact decode_encodeWrite .deadline 0#32
  | wrRxp w => exact decode_of_accessRow (.writeRxp w 0#32 (of_decide_eq_true hwf))
  | busError hwrite addr hsize =>
    have hun := (wellFormed_busError_iff cfg ⟨hwrite, addr, hsize, 0#32⟩ hwrite).mp hwf
    exact decode_of_accessRow (.busError ⟨hwrite, addr, hsize, 0#32⟩ hun)
  | evTxAccept | evChClosed | evChError | evTick => rfl
  | evRxByte b => exact decode_encode_evRxByte b

/-! ### What the decoder gives is well formed -/

theorem wellFormed_decodeCsrRead (cfg : Config) (r : Csr) : WellFormed cfg (decodeCsrRead r) = true := by
  cases r <;> rfl

/-- The commands of CTRL, by the two bits of OP (30_encoding.md R68). -/
theorem decodeCtrl_cases (d : Word) :
    (d.extractLsb' 0 2 = 0#2 ∧ decodeCtrl d = .ctrlNop) ∨ (d.extractLsb' 0 2 = 1#2 ∧ decodeCtrl d = .ctrlExecute)
      ∨ (d.extractLsb' 0 2 = 2#2 ∧ decodeCtrl d = .ctrlAck) ∨ (d.extractLsb' 0 2 = 3#2 ∧ decodeCtrl d = .ctrlReserved) := by
  unfold decodeCtrl
  generalize d.extractLsb' 0 2 = op
  revert op
  decide

theorem wellFormed_decodeCsrWrite (cfg : Config) (d : Word) (r : Csr) : WellFormed cfg (decodeCsrWrite d r) = true := by
  cases r
  case ctrl =>
    rw [decodeCsrWrite]
    rcases decodeCtrl_cases d with ⟨-, h⟩ | ⟨-, h⟩ | ⟨-, h⟩ | ⟨-, h⟩ <;> rw [h] <;> rfl
  all_goals rfl

theorem wellFormed_of_accessRow {cfg : Config} {a : Access} {i : Instr} (h : AccessRow cfg a i) :
    WellFormed cfg i = true := by
  cases h with
  | readRegister r d => exact wellFormed_decodeCsrRead cfg r
  | writeRegister r d => exact wellFormed_decodeCsrWrite cfg d r
  | readTxp w d hw | writeTxp w d hw | readRxp w d hw | writeRxp w d hw => exact decide_eq_true hw
  | busError _ hun => exact (wellFormed_busError_iff cfg a a.hwrite).mpr hun

theorem IsEvent.wellFormed {i : Instr} (h : IsEvent i) (cfg : Config) : WellFormed cfg i = true := by
  cases h <;> rfl

/-- Settles O3: of what the decoder gives, the host accesses are well formed row by row, and the events always. -/
theorem decodedOperationIsWellFormed : Obligations.DecodedOperationIsWellFormed := by
  intro cfg e i h
  rcases decode_eq_ok h with ⟨a, -, hrow⟩ | ⟨v, -, hv⟩
  · exact wellFormed_of_accessRow hrow
  · have hmem : i ∈ decodeEvents v := by simp [hv]
    exact (isEvent_of_mem_decodeEvents hmem).wellFormed cfg

/-! ### What the decoder gives fits its row of the table -/

/-- A key under the mask of the rows of CTRL, which looks at the address and at OP. -/
theorem accessKey_and_ctrlMask (hwrite : Bool) (a : HostAddr) (d : Word) :
    accessKey hwrite a d &&& 0xFFFFF00000003#52 = accessKey hwrite a ((d.extractLsb' 0 2).setWidth 32) := by
  have hm : (0xFFFFF00000003#52) = (1#1 ++ 1#1 ++ 0x3FFFF#18 ++ 3#32 : BitVec 52) := rfl
  have ha : a &&& 0x3FFFF#18 = a := BitVec.and_allOnes
  have hb : BitVec.ofBool hwrite &&& 1#1 = BitVec.ofBool hwrite := BitVec.and_allOnes
  have hd : d &&& 3#32 = (d.extractLsb' 0 2).setWidth 32 := by
    apply BitVec.eq_of_toNat_eq
    have hmod : d.toNat &&& 3 = d.toNat % 4 := Nat.and_two_pow_sub_one_eq_mod d.toNat 2
    simp [hmod]
    omega
  rw [hm]
  unfold accessKey
  rw [BitVec.and_append, BitVec.and_append, BitVec.and_append, ha, hb, hd]
  rfl

theorem tableRow_decodeCsrRead (r : Csr) :
    tableRow (decodeCsrRead r) = .hbus 0xFFFFF00000000#52 (accessKey false r.offset 0#32) := by
  cases r <;> rfl

theorem tableRow_decodeCsrWrite (d : Word) {r : Csr} (hr : r ≠ .ctrl) :
    tableRow (decodeCsrWrite d r) = .hbus 0xFFFFF00000000#52 (accessKey true r.offset 0#32) := by
  cases r
  case ctrl => exact absurd rfl hr
  all_goals rfl

theorem tableRow_decodeCtrl (d : Word) : tableRow (decodeCtrl d)
    = .hbus 0xFFFFF00000003#52 (accessKey true Csr.ctrl.offset ((d.extractLsb' 0 2).setWidth 32)) := by
  rcases decodeCtrl_cases d with ⟨hop, h⟩ | ⟨hop, h⟩ | ⟨hop, h⟩ | ⟨hop, h⟩ <;> rw [h, hop] <;> rfl

/-- The key of an access fits the row of the operation that the access is. -/
theorem fits_of_accessRow {cfg : Config} {a : Access} {i : Instr} (h : AccessRow cfg a i) (hsize : Nat) :
    (tableRow i).fits (.hbus hsize (accessKey a.hwrite a.haddr a.hwdata)) = true := by
  cases h with
  | readRegister r d =>
    rw [tableRow_decodeCsrRead, TableRow.fits, accessKey_and_addressMask, beq_self_eq_true]
  | writeRegister r d =>
    by_cases hr : r = .ctrl
    · subst hr
      rw [decodeCsrWrite, tableRow_decodeCtrl, TableRow.fits, accessKey_and_ctrlMask, beq_self_eq_true]
    · rw [tableRow_decodeCsrWrite d hr, TableRow.fits, accessKey_and_addressMask, beq_self_eq_true]
  | readTxp w d hw | writeTxp w d hw | readRxp w d hw | writeRxp w d hw =>
    simp only [tableRow, TableRow.fits, accessKey_and_windowMask]
    decide
  | busError _ hun => rw [tableRow, TableRow.fits, BitVec.and_zero, beq_self_eq_true]

/-- A vector with a bit set agrees with that bit's mask. -/
theorem and_twoPow_of_getLsbD {v : BitVec 13} {n : Nat} (h : v.getLsbD n = true) :
    (v &&& BitVec.twoPow 13 n == BitVec.twoPow 13 n) = true := by
  rw [BitVec.and_twoPow, if_pos h, beq_self_eq_true]

/-- An input vector fits the row of each event that it carries (30_encoding.md R71). -/
theorem fits_of_mem_decodeEvents {v : BitVec 13} {i : Instr} (h : i ∈ decodeEvents v) :
    (tableRow i).fits (.iv v) = true := by
  simp only [decodeEvents, List.mem_append, List.mem_ite_nil_right, List.mem_singleton] at h
  rcases h with (((⟨hbit, rfl⟩ | ⟨hbit, rfl⟩) | ⟨hbit, rfl⟩) | ⟨hbit, rfl⟩) | ⟨hbit, rfl⟩
  all_goals exact and_twoPow_of_getLsbD hbit

/-- Settles O4: the key of an access under the mask of its row keeps the bits that the row matches, and an event's row is the
event's bit. -/
theorem decodedBitsFitTheTableRow : Obligations.DecodedBitsFitTheTableRow := by
  intro cfg e i h
  rcases decode_eq_ok h with ⟨a, rfl, hrow⟩ | ⟨v, rfl, hv⟩
  · exact fits_of_accessRow hrow a.hsize
  · have hmem : i ∈ decodeEvents v := by simp [hv]
    exact fits_of_mem_decodeEvents hmem

end Sys2Proof.Machine
end

section
/-! PROOFS. The checksums: the values that the rules give, and that no checksum keeps its value when one covered byte changes
(40_frame_codec.md R75 to R79, R85). -/

namespace Sys2Proof.Machine

theorem byteSum_append (X Y : List Byte) : byteSum (X ++ Y) = byteSum X + byteSum Y := by
  induction X with
  | nil => simp [byteSum]
  | cons b X ih => simp only [List.cons_append, byteSum, ih, Nat.add_assoc]

theorem byteSum_replicate (n : Nat) (b : Byte) : byteSum (List.replicate n b) = n * b.toNat := by
  induction n with
  | zero => simp [byteSum]
  | succ n ih => rw [List.replicate_succ, byteSum, ih, Nat.succ_mul, Nat.add_comm]

/-- Settles O31: short lists are evaluated, and the 300 bytes of 0xFF are summed by `byteSum_replicate`. -/
theorem checksumExamples : Obligations.ChecksumExamples := by
  have cancels : ∀ x, xor8 [x, x] = 0x00#8 := fun x => by simp [xor8]
  have wraps : sum16 (List.replicate 300 0xFF#8) = 0x2AD4#16 := by
    rw [sum16, byteSum_replicate]
    rfl
  have worked : crc16 [0x01#8, 0x22#8, 0x02#8, 0x00#8, 0x01#8] = 0xB873#16 := by
    simp [crc16, crcByte, crcShifts, crcShift]
  have check :
      crc16 [0x31#8, 0x32#8, 0x33#8, 0x34#8, 0x35#8, 0x36#8, 0x37#8, 0x38#8, 0x39#8] = 0x4B37#16 := by
    simp [crc16, crcByte, crcShifts, crcShift]
  exact ⟨by decide, by decide, cancels, by decide, by decide, by decide, by decide, wraps, by decide, by decide, worked,
    check⟩

/-- A fold that is injective in its register and in each byte tells two lists apart that differ in one byte. -/
theorem foldl_byte_injective {R : Type} {f : R → Byte → R} (hreg : ∀ b, Function.Injective fun r => f r b)
    (hbyte : ∀ r, Function.Injective (f r)) {r : R} {X Y : List Byte} {b b' : Byte}
    (h : (X ++ b :: Y).foldl f r = (X ++ b' :: Y).foldl f r) : b = b' := by
  have fold_injective : ∀ Y : List Byte, Function.Injective fun r => Y.foldl f r := by
    intro Y
    induction Y with
    | nil => exact fun _ _ h => h
    | cons c Y ih => exact ih.comp (hreg c)
  rw [List.foldl_append, List.foldl_append] at h
  exact hbyte _ (fold_injective Y h)

theorem getLsbD_crcShift (c : BitVec 16) (k : Nat) :
    (crcShift c).getLsbD k = (c.getLsbD (k + 1) ^^ (c.getLsbD 0 && (0xA001#16).getLsbD k)) := by
  unfold crcShift
  split <;> simp_all [Nat.add_comm]

/-- The feedback of the CRC register has bit 15 set, so the bit shifted out can be read back from there
(40_frame_codec.md R78). -/
theorem crcShift_injective : Function.Injective crcShift := by
  intro c c' h
  have hbit (k : Nat) := congrArg (BitVec.getLsbD · k) h
  simp only [getLsbD_crcShift] at hbit
  have hzero : c.getLsbD 0 = c'.getLsbD 0 := by simpa using hbit 15
  apply BitVec.eq_of_getLsbD_eq
  rintro (_ | k) _
  · exact hzero
  · exact Bool.xor_left_inj.mp (hzero ▸ hbit k)

theorem crcShifts_injective (n : Nat) : Function.Injective (crcShifts n) := by
  induction n with
  | zero => exact fun _ _ h => h
  | succ n ih => exact ih.comp crcShift_injective

theorem crcByte_injective_register (b : Byte) : Function.Injective fun c => crcByte c b :=
  fun _ _ h => (BitVec.xor_left_inj _).mp (crcShifts_injective 8 h)

theorem setWidth_byte_injective : Function.Injective (BitVec.setWidth 16 : Byte → BitVec 16) := by
  intro b b' h
  have := congrArg BitVec.toNat h
  simp only [BitVec.toNat_setWidth] at this
  exact BitVec.eq_of_toNat_eq (by omega)

theorem crcByte_injective_byte (c : BitVec 16) : Function.Injective (crcByte c) :=
  fun _ _ h => setWidth_byte_injective ((BitVec.xor_right_inj _).mp (crcShifts_injective 8 h))

/-- One byte more or less in a sum shows modulo any width of at least a byte (40_frame_codec.md R85). -/
theorem ofNat_byteSum_injective_byte {w : Nat} (hw : 8 ≤ w) {X Y : List Byte} {b b' : Byte}
    (h : BitVec.ofNat w (byteSum (X ++ b :: Y)) = BitVec.ofNat w (byteSum (X ++ b' :: Y))) : b = b' := by
  have hmod := congrArg BitVec.toNat h
  simp only [BitVec.toNat_ofNat, byteSum_append, byteSum] at hmod
  have hbyte : b.toNat ≡ b'.toNat [MOD 2 ^ w] :=
    Nat.ModEq.add_right_cancel' (byteSum Y) (Nat.ModEq.add_left_cancel' (byteSum X) hmod)
  have hlt (c : Byte) : c.toNat < 2 ^ w := c.isLt.trans_le (Nat.pow_le_pow_right (by decide) hw)
  exact BitVec.eq_of_toNat_eq (hbyte.eq_of_lt_of_lt (hlt b) (hlt b'))

theorem xor8_injective_byte {X Y : List Byte} {b b' : Byte} (h : xor8 (X ++ b :: Y) = xor8 (X ++ b' :: Y)) : b = b' :=
  foldl_byte_injective (f := fun c b => c ^^^ b) (fun _ _ _ => (BitVec.xor_left_inj _).mp)
    (fun _ _ _ => (BitVec.xor_right_inj _).mp) h

/-- Under every CHK_ALG the checksum tells two lists apart that differ in one byte (40_frame_codec.md R85). -/
theorem checksum_injective_byte {cfg : Config} {X Y : List Byte} {b b' : Byte}
    (h : checksum cfg (X ++ b :: Y) = checksum cfg (X ++ b' :: Y)) : b = b' := by
  unfold checksum at h
  split at h
  · exact xor8_injective_byte (setWidth_byte_injective h)
  · exact ofNat_byteSum_injective_byte (Nat.le_refl 8) (setWidth_byte_injective h)
  · exact ofNat_byteSum_injective_byte (by decide) h
  · exact foldl_byte_injective crcByte_injective_register crcByte_injective_byte h

end Sys2Proof.Machine
end

section
/-! PROOFS. Buffers compared byte by byte: each part of the decoder's answer is a function of the bytes of one range of the
buffer (30_encoding.md R59 to R62, 40_frame_codec.md R81, R82). -/

namespace Sys2Proof.Machine

/-- The buffers `B` and `B'` have the same bytes at the indexes from `i` up to, not including, `j`. -/
def AgreeOn (B B' : List Byte) (i j : Nat) : Prop := ∀ k, i ≤ k → k < j → byteAt B k = byteAt B' k

theorem AgreeOn.mono {B B' : List Byte} {i j i' j' : Nat} (h : AgreeOn B B' i j) (hi : i ≤ i') (hj : j' ≤ j) :
    AgreeOn B B' i' j' := fun k hk hk' => h k (hi.trans hk) (hk'.trans_le hj)

theorem AgreeOn.join {B B' : List Byte} {i j k : Nat} (h : AgreeOn B B' i j) (h' : AgreeOn B B' j k) :
    AgreeOn B B' i k := fun m hi hk => (Nat.lt_or_ge m j).elim (h m hi) (fun hj => h' m hj hk)

theorem agreeOn_one {B B' : List Byte} {i : Nat} : AgreeOn B B' i (i + 1) ↔ byteAt B i = byteAt B' i := by
  refine ⟨fun h => h i (Nat.le_refl i) (Nat.lt_succ_self i), fun h k hi hj => ?_⟩
  obtain rfl : k = i := by omega
  exact h

theorem agreeOn_two {B B' : List Byte} {i : Nat} :
    AgreeOn B B' i (i + 2) ↔ byteAt B i = byteAt B' i ∧ byteAt B (i + 1) = byteAt B' (i + 1) := by
  rw [← agreeOn_one, ← agreeOn_one]
  exact ⟨fun h => ⟨h.mono (by omega) (by omega), h.mono (by omega) (by omega)⟩, fun ⟨h, h'⟩ => h.join h'⟩

theorem byteAt_eq_getElem {B : List Byte} {k : Nat} (h : k < B.length) : byteAt B k = B[k] :=
  List.getD_eq_getElem _ _ h

/-- The bytes at the front of a joined buffer are those of its first part. -/
theorem agreeOn_append (B R : List Byte) {j : Nat} (hj : j ≤ B.length) (i : Nat) : AgreeOn (B ++ R) B i j :=
  fun _ _ hk => List.getD_append _ _ _ _ (hk.trans_le hj)

theorem byteAt_slice (B : List Byte) {i j k : Nat} (hk : k < j - i) : byteAt (slice B i j) k = byteAt B (i + k) := by
  simp [byteAt, slice, List.getElem?_drop, hk]

theorem slice_eq_iff {B B' : List Byte} {i j : Nat} (hB : j ≤ B.length) (hB' : j ≤ B'.length) :
    slice B i j = slice B' i j ↔ AgreeOn B B' i j := by
  constructor
  · intro h k hi hj
    have hbyte := congrArg (byteAt · (k - i)) h
    simp only [byteAt_slice _ (show k - i < j - i by omega), show i + (k - i) = k by omega] at hbyte
    exact hbyte
  · intro h
    refine List.ext_getElem (by rw [slice_length _ _ _ hB, slice_length _ _ _ hB']) fun k hk hk' => ?_
    rw [slice_length _ _ _ hB] at hk
    rw [← byteAt_eq_getElem, ← byteAt_eq_getElem, byteAt_slice _ hk, byteAt_slice _ hk]
    exact h _ (by omega) (by omega)

theorem take_eq_iff {B B' : List Byte} {n : Nat} (hB : n ≤ B.length) (hB' : n ≤ B'.length) :
    B.take n = B'.take n ↔ AgreeOn B B' 0 n := by
  rw [← slice_eq_iff hB hB', slice, slice, List.drop_zero, List.drop_zero, Nat.sub_zero]

theorem unord16_inj {x y x' y' : Byte} {o : ByteOrder} : unord16 x y o = unord16 x' y' o ↔ x = x' ∧ y = y' := by
  refine ⟨fun h => ?_, fun ⟨hx, hy⟩ => by rw [hx, hy]⟩
  have hlow := congrArg (BitVec.extractLsb' 0 8) h
  have hhigh := congrArg (BitVec.extractLsb' 8 8) h
  cases o <;>
    simp only [unord16, BitVec.extractLsb'_append_eq_right, BitVec.extractLsb'_append_eq_left] at hlow hhigh
  · exact ⟨hhigh, hlow⟩
  · exact ⟨hlow, hhigh⟩

/-- The length field stands between the command and the payload, and tells its bytes (30_encoding.md R61). -/
theorem lengthField_eq_iff {cfg : Config} {B B' : List Byte} :
    lengthField cfg B = lengthField cfg B' ↔ AgreeOn B B' (cfg.startLen + 2) cfg.hdrLen := by
  unfold lengthField
  rw [cfg.hdrLen_eq]
  rcases cfg.lenW_cases with h | h
  · simp only [h, if_true, BitVec.toNat_inj, agreeOn_one]
  · simp only [h, OfNat.ofNat_ne_one, if_false, BitVec.toNat_inj, unord16_inj, agreeOn_two]

/-- The received checksum stands in the last CHK_W bytes of the frame, and tells them (30_encoding.md R62). -/
theorem receivedChecksum_eq_iff {cfg : Config} {B B' : List Byte} {i : Nat} :
    receivedChecksum cfg B (i + cfg.chkW) = receivedChecksum cfg B' (i + cfg.chkW)
      ↔ AgreeOn B B' i (i + cfg.chkW) := by
  unfold receivedChecksum
  rcases cfg.chkW_cases with h | h
  · simp only [h, if_true, setWidth_byte_injective.eq_iff, agreeOn_one, Nat.add_sub_cancel]
  · simp only [h, OfNat.ofNat_ne_one, if_false, unord16_inj, agreeOn_two, Nat.add_sub_cancel,
      show i + 2 - 1 = i + 1 by omega]

/-- A buffer that holds a whole start marker begins plausibly where these bytes are START_BYTES (40_frame_codec.md R81). -/
theorem plausible_zero_iff {cfg : Config} {B : List Byte} (hB : cfg.startLen ≤ B.length) :
    plausible cfg B 0 = true ↔ AgreeOn B cfg.startBytes 0 cfg.startLen := by
  rw [plausible_zero]
  unfold Config.startLen at hB
  unfold Config.startBytes Config.startLen
  cases hs : cfg.start with
  | one s0 =>
    rw [agreeOn_one]
    match B, hs ▸ hB with
    | [b], _ => simp [plausibleHead, Config.start0, hs]
    | b :: c :: R, _ => simp [plausibleHead, hs]
  | two s0 s1 =>
    rw [agreeOn_two]
    match B, hs ▸ hB with
    | b :: c :: R, _ => simp [plausibleHead, hs]

end Sys2Proof.Machine
end

section
/-! PROOFS. What the decoder answers, read from the buffer: the round trip, the consistency of a decoded frame, the progress of
a corrupt result (40_frame_codec.md R81 to R84). -/

namespace Sys2Proof.Machine

theorem decodeFrame_of_not_plausible {cfg : Config} {B : List Byte} (h0 : 0 < B.length) (hp : ¬ plausible cfg B 0 = true) :
    decodeFrame cfg B = .corrupt .noStart (nextMarker cfg B 1) := by
  rw [decodeFrame, if_neg h0.ne', if_pos (Bool.not_eq_true _ ▸ hp)]

section Header
variable {cfg : Config} {B : List Byte}

/-- A whole header behind a start marker leaves the tests of the length and of the checksum (40_frame_codec.md R82). -/
theorem decodeFrame_of_header (hp : plausible cfg B 0 = true) (hh : cfg.hdrLen ≤ B.length) :
    decodeFrame cfg B =
      if cfg.maxPayload < lengthField cfg B then .corrupt .length (nextMarker cfg B 1)
      else if B.length < cfg.frameLen (lengthField cfg B) then .incomplete
      else if checksum cfg (slice B cfg.startLen (cfg.hdrLen + lengthField cfg B))
          ≠ receivedChecksum cfg B (cfg.frameLen (lengthField cfg B)) then .corrupt .checksum (nextMarker cfg B 1)
      else
        .ok ⟨byteAt B cfg.startLen, byteAt B (cfg.startLen + 1), slice B cfg.hdrLen (cfg.hdrLen + lengthField cfg B)⟩
          (cfg.frameLen (lengthField cfg B)) := by
  have := cfg.hdrLen_ge
  rw [decodeFrame, if_neg (by omega), if_neg (by simp [hp]), if_neg (by omega)]

theorem decodeFrame_of_length_gt (hp : plausible cfg B 0 = true) (hh : cfg.hdrLen ≤ B.length)
    (hl : cfg.maxPayload < lengthField cfg B) : decodeFrame cfg B = .corrupt .length (nextMarker cfg B 1) := by
  rw [decodeFrame_of_header hp hh, if_pos hl]

theorem decodeFrame_of_header_short (hp : plausible cfg B 0 = true) (hh : B.length < cfg.hdrLen) :
    decodeFrame cfg B = .incomplete := by
  simp only [decodeFrame, hp, hh, Bool.true_eq_false, if_false, if_true, ite_self]

theorem decodeFrame_of_short (hp : plausible cfg B 0 = true) (hl : lengthField cfg B ≤ cfg.maxPayload)
    (hB : B.length < cfg.frameLen (lengthField cfg B)) : decodeFrame cfg B = .incomplete := by
  rcases Nat.lt_or_ge B.length cfg.hdrLen with hh | hh
  · exact decodeFrame_of_header_short hp hh
  · rw [decodeFrame_of_header hp hh, if_neg hl.not_gt, if_pos hB]

theorem hdrLen_le_of_frameLen_le {n : Nat} (hB : cfg.frameLen n ≤ B.length) : cfg.hdrLen ≤ B.length := by
  rw [cfg.frameLen_eq] at hB
  omega

theorem decodeFrame_of_checksum_ne (hp : plausible cfg B 0 = true) (hl : lengthField cfg B ≤ cfg.maxPayload)
    (hB : cfg.frameLen (lengthField cfg B) ≤ B.length)
    (hc : checksum cfg (slice B cfg.startLen (cfg.hdrLen + lengthField cfg B))
      ≠ receivedChecksum cfg B (cfg.frameLen (lengthField cfg B))) :
    decodeFrame cfg B = .corrupt .checksum (nextMarker cfg B 1) := by
  rw [decodeFrame_of_header hp (hdrLen_le_of_frameLen_le hB), if_neg hl.not_gt, if_neg hB.not_gt, if_pos hc]

theorem decodeFrame_of_checksum_eq (hp : plausible cfg B 0 = true) (hl : lengthField cfg B ≤ cfg.maxPayload)
    (hB : cfg.frameLen (lengthField cfg B) ≤ B.length)
    (hc : checksum cfg (slice B cfg.startLen (cfg.hdrLen + lengthField cfg B))
      = receivedChecksum cfg B (cfg.frameLen (lengthField cfg B))) :
    decodeFrame cfg B =
      .ok ⟨byteAt B cfg.startLen, byteAt B (cfg.startLen + 1), slice B cfg.hdrLen (cfg.hdrLen + lengthField cfg B)⟩
        (cfg.frameLen (lengthField cfg B)) := by
  rw [decodeFrame_of_header hp (hdrLen_le_of_frameLen_le hB), if_neg hl.not_gt, if_neg hB.not_gt,
    if_neg (not_not_intro hc)]

end Header

/-- A frame, with or without bytes behind it, begins plausibly. -/
theorem plausible_encodeFrame_append (cfg : Config) (a c : Byte) (p R : List Byte) :
    plausible cfg (encodeFrame cfg a c p ++ R) 0 = true := by
  have hlen : cfg.startLen ≤ cfg.startBytes.length := cfg.startBytes_length.ge
  rw [encodeFrame_append]
  exact (plausible_zero_iff (hlen.trans (by simp))).mpr (agreeOn_append _ _ hlen 0)

/-- Settles O33: each test of the decoder reads back what the encoder wrote, whatever follows the frame. -/
theorem frameRoundTrip : Obligations.FrameRoundTrip := by
  intro cfg a c p R hp
  have hl := lengthField_encodeFrame_append cfg a c p R hp
  have hB : cfg.frameLen p.length ≤ (encodeFrame cfg a c p ++ R).length := by simp [encodeFrame_length]
  have hc := (slice_covered_encodeFrame_append cfg a c p R).symm ▸ (receivedChecksum_encodeFrame_append cfg a c p R).symm
  rw [decodeFrame_of_checksum_eq (plausible_encodeFrame_append cfg a c p R) (hl ▸ hp) (hl ▸ hB) (hl ▸ hc), hl,
    byteAt_addr_encodeFrame_append, byteAt_cmd_encodeFrame_append, slice_payload_encodeFrame_append, encodeFrame_length]

/-- A decoded frame has the same bytes as its encoding: the two decode alike, and the decoder reads every byte of a frame. -/
theorem agreeOn_encodeFrame_of_decodeFrame_ok {cfg : Config} {B : List Byte} {f : Frame} {n : Nat}
    (h : decodeFrame cfg B = .ok f n) : AgreeOn B (encodeFrame cfg f.addr f.cmd f.payload) 0 n := by
  have hL := decodeFrame_ok_payload h
  obtain ⟨hp, hh, hl, rfl, hB, hc, hf⟩ := decodeFrame_ok h
  have hF := frameRoundTrip cfg f.addr f.cmd f.payload [] (hL ▸ hl)
  rw [List.append_nil] at hF
  have hFL := (decodeFrame_ok_payload hF).symm.trans hL
  obtain ⟨hp', hh', -, hn', -, hc', hf'⟩ := decodeFrame_ok hF
  rw [hFL] at hn' hc' hf'
  rw [hn'] at hc'
  obtain ⟨haddr, hcmd, hpayload⟩ := Frame.mk.inj (hf.symm.trans hf')
  rw [cfg.frameLen_eq] at hB hn'
  have hstart : AgreeOn B (encodeFrame cfg f.addr f.cmd f.payload) 0 cfg.startLen := by
    have hsB : cfg.startLen ≤ cfg.hdrLen := by rw [cfg.hdrLen_eq]; omega
    intro k hi hj
    rw [(plausible_zero_iff (hsB.trans hh)).mp hp k hi hj, (plausible_zero_iff (hsB.trans hh')).mp hp' k hi hj]
  have hcovered : AgreeOn B (encodeFrame cfg f.addr f.cmd f.payload) cfg.startLen (cfg.hdrLen + lengthField cfg B) :=
    (agreeOn_two.mpr ⟨haddr, hcmd⟩).join
      ((lengthField_eq_iff.mp hFL.symm).join ((slice_eq_iff (by omega) (by omega)).mp hpayload))
  rw [(slice_eq_iff (by omega) (by omega)).mpr hcovered, hc'] at hc
  exact hstart.join (hcovered.join (receivedChecksum_eq_iff.mp hc.symm))

/-- Settles O34: the bytes of a decoded frame are those of its encoding, whose length and checksum are laid out. -/
theorem decodedFrameIsItsEncoding : Obligations.DecodedFrameIsItsEncoding := by
  intro cfg B f n h
  have hL := decodeFrame_ok_payload h
  have hagree := agreeOn_encodeFrame_of_decodeFrame_ok h
  obtain ⟨-, -, hl, hn, hB, -, -⟩ := decodeFrame_ok h
  rw [← hL] at hn hl
  have hlen : n = (encodeFrame cfg f.addr f.cmd f.payload).length := by rw [encodeFrame_length, hn]
  have hchk : receivedChecksum cfg B n = receivedChecksum cfg (encodeFrame cfg f.addr f.cmd f.payload) n := by
    subst hn
    exact receivedChecksum_eq_iff.mpr (hagree.mono (Nat.zero_le _) (Nat.le_refl _))
  refine ⟨hl, hn, hB, hL.symm, ?_, ?_⟩
  · rw [hchk, hn, ← List.append_nil (encodeFrame cfg f.addr f.cmd f.payload), receivedChecksum_encodeFrame_append]
  · rw [(take_eq_iff hB hlen.le).mpr hagree, hlen, List.take_length]

/-- Settles O35: the discard ends at the first plausible marker from index 1 on. -/
theorem corruptResultMakesProgress : Obligations.CorruptResultMakesProgress := by
  intro cfg B r k h
  obtain ⟨h0, rfl⟩ := decodeFrame_corrupt h
  exact nextMarker_spec cfg B 1 h0

end Sys2Proof.Machine
end

section
/-! PROOFS. Single-bit errors of a buffer that decodes to a frame, by the part of the frame that they fall in
(40_frame_codec.md R85). -/

namespace Sys2Proof.Machine

/-! ### The flipped bit -/

@[simp] theorem flipBit_length (B : List Byte) (i j : Nat) : (flipBit B i j).length = B.length := List.length_set

theorem agreeOn_flipBit_of_outside {B : List Byte} {i lo hi : Nat} (j : Nat) (h : i < lo ∨ hi ≤ i) :
    AgreeOn (flipBit B i j) B lo hi := by
  intro k hlo hhi
  have hne : i ≠ k := by omega
  simp [byteAt, flipBit, List.getElem?_set_ne hne]

theorem flipped_byte_ne (b : Byte) {j : Nat} (hj : j < 8) : b ^^^ BitVec.twoPow 8 j ≠ b := by
  intro h
  have hbit := congrArg (BitVec.getLsbD · j) h
  simp [hj] at hbit

theorem not_agreeOn_flipBit {B : List Byte} {i j lo hi : Nat} (hj : j < 8) (hB : i < B.length) (hlo : lo ≤ i)
    (hhi : i < hi) : ¬ AgreeOn (flipBit B i j) B lo hi := by
  intro h
  have hbyte := h i hlo hhi
  rw [byteAt_eq_getElem (by simpa using hB)] at hbyte
  simp only [flipBit, List.getElem_set_self] at hbyte
  exact flipped_byte_ne _ hj hbyte

theorem slice_flipBit {B : List Byte} {i lo hi : Nat} (j : Nat) (hlo : lo ≤ i) (hhi : i < hi) :
    slice (flipBit B i j) lo hi = flipBit (slice B lo hi) (i - lo) j := by
  rw [flipBit, flipBit, byteAt_slice _ (by omega), Nat.add_sub_cancel' hlo, slice, slice, List.drop_set,
    if_neg hlo.not_gt, List.take_set]

theorem checksum_flipBit_ne (cfg : Config) {D : List Byte} {i j : Nat} (hj : j < 8) (hi : i < D.length) :
    checksum cfg (flipBit D i j) ≠ checksum cfg D := by
  intro h
  conv_rhs at h => rw [← List.take_append_drop i D, List.drop_eq_getElem_cons hi, ← byteAt_eq_getElem hi]
  rw [flipBit, List.set_eq_take_cons_drop _ hi] at h
  exact flipped_byte_ne _ hj (checksum_injective_byte h)

/-! ### Its effect on a frame -/

section SingleBit
variable {cfg : Config} {B : List Byte} {f : Frame} {n i j : Nat}

/-- A flipped bit of the start marker hides it. -/
theorem decodeFrame_flipBit_startMarker (h : decodeFrame cfg B = .ok f n) (hj : j < 8) (hi : i < cfg.startLen) :
    ∃ k, decodeFrame cfg (flipBit B i j) = .corrupt .noStart k := by
  obtain ⟨hp, hh, -⟩ := decodeFrame_ok h
  rw [cfg.hdrLen_eq] at hh
  have hs : cfg.startLen ≤ B.length := by omega
  have hp' : ¬ plausible cfg (flipBit B i j) 0 = true := by
    rw [plausible_zero_iff (by simpa using hs)]
    intro hstart
    refine not_agreeOn_flipBit hj (hi.trans_le hs) (Nat.zero_le i) hi fun k h0 hk => ?_
    rw [hstart k h0 hk, (plausible_zero_iff hs).mp hp k h0 hk]
  exact ⟨_, decodeFrame_of_not_plausible (by simp; omega) hp'⟩

/-- A flipped bit behind the start marker leaves the marker. -/
theorem plausible_flipBit (h : decodeFrame cfg B = .ok f n) (hi : cfg.startLen ≤ i) :
    plausible cfg (flipBit B i j) 0 = true := by
  obtain ⟨hp, hh, -⟩ := decodeFrame_ok h
  rw [cfg.hdrLen_eq] at hh
  have hs : cfg.startLen ≤ B.length := by omega
  rw [plausible_zero_iff (by simpa using hs)]
  intro k h0 hk
  rw [agreeOn_flipBit_of_outside j (.inr hi) k h0 hk, (plausible_zero_iff hs).mp hp k h0 hk]

/-- A flipped bit of a covered byte changes the checksum and not the checksum field, and one of the checksum field does the
converse. -/
theorem checksum_ne_received_flipBit (h : decodeFrame cfg B = .ok f n) (hj : j < 8) (hs : cfg.startLen ≤ i) (hi : i < n) :
    checksum cfg (slice (flipBit B i j) cfg.startLen (cfg.hdrLen + lengthField cfg B))
      ≠ receivedChecksum cfg (flipBit B i j) (cfg.frameLen (lengthField cfg B)) := by
  obtain ⟨-, -, -, rfl, hB, hc, -⟩ := decodeFrame_ok h
  rw [cfg.frameLen_eq] at hi hB hc ⊢
  rcases Nat.lt_or_ge i (cfg.hdrLen + lengthField cfg B) with hcov | hchk
  · rw [receivedChecksum_eq_iff.mpr (agreeOn_flipBit_of_outside j (.inl hcov)), ← hc, slice_flipBit j hs hcov]
    exact checksum_flipBit_ne cfg hj (by rw [slice_length _ _ _ (by omega)]; omega)
  · rw [(slice_eq_iff (by simp; omega) (by omega)).mpr (agreeOn_flipBit_of_outside j (.inr hchk)), hc]
    exact fun heq => not_agreeOn_flipBit hj (by omega) hchk hi (receivedChecksum_eq_iff.mp heq.symm)

/-- A flipped bit behind the start marker and outside the length field fails the checksum test. -/
theorem decodeFrame_flipBit_checksum (h : decodeFrame cfg B = .ok f n) (hj : j < 8) (hs : cfg.startLen ≤ i) (hi : i < n)
    (hout : i < cfg.startLen + 2 ∨ cfg.hdrLen ≤ i) : ∃ k, decodeFrame cfg (flipBit B i j) = .corrupt .checksum k := by
  have hlen : lengthField cfg (flipBit B i j) = lengthField cfg B :=
    lengthField_eq_iff.mpr (agreeOn_flipBit_of_outside j hout)
  have hne := checksum_ne_received_flipBit h hj hs hi
  obtain ⟨-, -, hl, rfl, hB, -, -⟩ := decodeFrame_ok h
  rw [← hlen] at hl hB hne
  exact ⟨_, decodeFrame_of_checksum_ne (plausible_flipBit h hs) hl (by simpa using hB) hne⟩

/-- A flipped bit of the length field changes the declared length. -/
theorem lengthField_flipBit_ne (h : decodeFrame cfg B = .ok f n) (hj : j < 8) (hlo : cfg.startLen + 2 ≤ i)
    (hhi : i < cfg.hdrLen) : lengthField cfg (flipBit B i j) ≠ f.payload.length := by
  obtain ⟨-, hh, -⟩ := decodeFrame_ok h
  rw [decodeFrame_ok_payload h]
  exact fun heq => not_agreeOn_flipBit hj (hhi.trans_le hh) hlo hhi (lengthField_eq_iff.mp heq)

/-- A shorter declared length leaves a whole frame in the buffer, which fails its checksum test or passes it by chance. -/
theorem decodeFrame_of_shorter_length {L : Nat} (hp : plausible cfg B 0 = true) (hL : L ≤ cfg.maxPayload)
    (hB : B.length = cfg.frameLen L) (hlt : lengthField cfg B < L) :
    (∃ k, decodeFrame cfg B = .corrupt .checksum k)
      ∨ ∃ f n, decodeFrame cfg B = .ok f n ∧ f.payload.length < L ∧ n < B.length := by
  have hn : cfg.frameLen (lengthField cfg B) < B.length := by
    rw [hB, cfg.frameLen_eq, cfg.frameLen_eq]
    omega
  by_cases hc : checksum cfg (slice B cfg.startLen (cfg.hdrLen + lengthField cfg B))
      = receivedChecksum cfg B (cfg.frameLen (lengthField cfg B))
  · have hok := decodeFrame_of_checksum_eq hp (hlt.le.trans hL) hn.le hc
    exact .inr ⟨_, _, hok, (decodeFrame_ok_payload hok).trans_lt hlt, hn⟩
  · exact .inl ⟨_, decodeFrame_of_checksum_ne hp (hlt.le.trans hL) hn.le hc⟩

end SingleBit

/-- Settles O36: a frame decodes (`frameRoundTrip`), and the part that the flipped bit falls in decides which test it fails. -/
theorem singleBitErrorsOfAFrame : Obligations.SingleBitErrorsOfAFrame := by
  intro cfg a c p i j hp hj
  have hok := frameRoundTrip cfg a c p [] hp
  rw [List.append_nil] at hok
  have hlen := encodeFrame_length cfg a c p
  have hframe := cfg.frameLen_eq p.length
  have hhdr := cfg.hdrLen_eq
  refine ⟨fun hi => decodeFrame_flipBit_startMarker hok hj hi,
    fun hs hi => decodeFrame_flipBit_checksum hok hj hs (by omega) (.inl hi),
    fun hi hn => decodeFrame_flipBit_checksum hok hj (by omega) hn (.inr hi), fun hlo hhi => ?_⟩
  have hplausible := plausible_flipBit (j := j) hok (show cfg.startLen ≤ i by omega)
  have hne := lengthField_flipBit_ne hok hj hlo hhi
  rw [← flipBit_length (encodeFrame cfg a c p) i j] at hlen ⊢
  refine ⟨fun hgt => ⟨_, decodeFrame_of_length_gt hplausible (by omega) hgt⟩,
    fun hgt hle => decodeFrame_of_short hplausible hle ?_,
    fun hle => decodeFrame_of_shorter_length hplausible hp hlen (lt_of_le_of_ne hle hne)⟩
  rw [hlen, cfg.frameLen_eq, cfg.frameLen_eq]
  omega

end Sys2Proof.Machine
end

section
/-! PROOFS. An incomplete buffer in the synchronizer: what it begins with is incomplete too, so its bytes only accumulate in
RXBUF (40_frame_codec.md R82, 41_synchronizer.md R86, R88). -/

namespace Sys2Proof.Machine

/-- A buffer that begins plausibly does so however many of its bytes have come (40_frame_codec.md R81). -/
theorem plausibleHead_of_append {cfg : Config} {B R : List Byte} (hB : B ≠ [])
    (h : plausibleHead cfg (B ++ R) = true) : plausibleHead cfg B = true := by
  match B, R with
  | [b], [] => exact h
  | [b], c :: R =>
    cases hs : cfg.start with
    | one s0 => simpa [plausibleHead, Config.start0, hs] using h
    | two s0 s1 =>
      simp only [List.singleton_append, plausibleHead, hs, Bool.and_eq_true] at h
      obtain ⟨hb, -⟩ := h
      simpa [plausibleHead, Config.start0, hs] using hb
  | b :: c :: B, R => exact h

/-- The first bytes of an incomplete buffer are incomplete (40_frame_codec.md R82). -/
theorem decodeFrame_incomplete_of_append {cfg : Config} {B R : List Byte}
    (h : decodeFrame cfg (B ++ R) = .incomplete) : decodeFrame cfg B = .incomplete := by
  by_cases hB : B = []
  · rw [hB, decodeFrame_nil]
  have hne : B ++ R ≠ [] := fun he => hB (List.append_eq_nil_iff.mp he).1
  obtain ⟨hp, hshort⟩ := (decodeFrame_incomplete h).resolve_left hne
  rw [plausible_zero] at hp
  have hp' : plausible cfg B 0 = true := by
    rw [plausible_zero]
    exact plausibleHead_of_append hB hp
  rw [List.length_append] at hshort
  rcases Nat.lt_or_ge B.length cfg.hdrLen with hh | hh
  · exact decodeFrame_of_header_short hp' hh
  · have hlen : lengthField cfg (B ++ R) = lengthField cfg B := lengthField_eq_iff.mpr (agreeOn_append B R hh _)
    obtain ⟨hl, hlt⟩ := hshort.resolve_left (by omega)
    rw [hlen] at hl hlt
    exact decodeFrame_of_short hp' hl (by omega)

/-- A byte that leaves the buffer incomplete is appended, and nothing else happens (41_synchronizer.md R88). -/
theorem rxByte_of_incomplete {s : State} {b : Byte} (h : decodeFrame s.cfg (s.rxBuf ++ [b]) = .incomplete) :
    rxByte b s = appendRx b s := by
  simp only [rxByte, rxScan, rxLoop, appendRx_cfg, appendRx_rxBuf, h]

/-- Bytes that leave the buffer incomplete are appended one after the other. -/
theorem execAll_rxEvents_of_incomplete {s : State} {B : List Byte} (hrx : s.phase = .rx)
    (h : decodeFrame s.cfg (s.rxBuf ++ B) = .incomplete) :
    execAll (rxEvents B) s = .next { s with rxBuf := s.rxBuf ++ B } := by
  induction B generalizing s with
  | nil => rw [List.append_nil]; rfl
  | cons b B ih =>
    rw [List.append_cons] at h ⊢
    have hbyte := (exec_evRxByte b hrx).trans (congrArg _ (rxByte_of_incomplete (decodeFrame_incomplete_of_append h)))
    simp only [rxEvents, List.map_cons, execAll, hbyte]
    exact ih (s := appendRx b s) hrx h

/-- Settles O43: from an empty buffer, what is delivered is what is buffered. -/
theorem incompleteBytesStayBuffered : Obligations.IncompleteBytesStayBuffered := by
  intro s B hrx hempty h
  have hbytes := execAll_rxEvents_of_incomplete (s := s) (B := B) hrx
  rw [hempty, List.nil_append] at hbytes
  exact hbytes h

end Sys2Proof.Machine
end

section
/-! PROOFS. A received byte and the decode loop, turn by turn: each turn's equation holds with no bound on the turns
(41_synchronizer.md R87, R88). -/

namespace Sys2Proof.Machine

/-- Settles O37: the operation looks at PHASE before it does anything. -/
theorem byteOutsideRxIsDiscarded : Obligations.ByteOutsideRxIsDiscarded := by
  intro s b hrx
  simp only [exec_eq_next, execNext, if_neg hrx]

/-- What a corrupt buffer leaves in INV_SEEN and INV_RSN: nothing where it only lacks a start marker. -/
def noteCorrupt : CorruptReason → State → State
  | .noStart, s => s
  | .length, s => markInvalid .length s
  | .checksum, s => markInvalid .checksum s

@[simp] theorem noteCorrupt_rxBuf (r : CorruptReason) (s : State) : (noteCorrupt r s).rxBuf = s.rxBuf := by
  cases r <;> rfl

section Turns
variable {s : State}

/-- A turn that discards bytes leaves turns enough for those that remain. -/
theorem rxLoop_dropRx {u : State} {k : Nat} (hbuf : u.rxBuf = s.rxBuf) (h1 : 1 ≤ k) (hk : k ≤ s.rxBuf.length) :
    rxLoop s.rxBuf.length (dropRx k u) = rxScan (dropRx k u) := by
  have hlen : (dropRx k u).rxBuf.length = s.rxBuf.length - k := by rw [dropRx_rxBuf, hbuf, List.length_drop]
  exact rxLoop_fuel _ _ _ (by omega) (Nat.lt_succ_self _)

theorem rxScan_of_incomplete (h : decodeFrame s.cfg s.rxBuf = .incomplete) : rxScan s = s := by
  simp only [rxScan, rxLoop, h]

theorem rxScan_of_corrupt {r : CorruptReason} {k : Nat} (h : decodeFrame s.cfg s.rxBuf = .corrupt r k) :
    rxScan s = rxScan (dropRx k (noteCorrupt r s)) := by
  obtain ⟨h1, hk⟩ := decodeFrame_corrupt_bounds h
  rw [← rxLoop_dropRx (noteCorrupt_rxBuf r s) h1 hk]
  cases r <;> simp only [rxScan, rxLoop, h, noteCorrupt]

theorem rxScan_of_awaited {f : Frame} {n : Nat} (h : decodeFrame s.cfg s.rxBuf = .ok f n)
    (hcmd : f.cmd = s.reqNakCmd ∨ f.cmd = s.reqRspCmd) : rxScan s = (classify f s).2 := by
  rcases classify_cases f s with ⟨-, he⟩ | ⟨-, -, he⟩ | ⟨hnak, hrsp, -⟩
  · simp only [rxScan, rxLoop, h, he]
  · simp only [rxScan, rxLoop, h, he]
  · exact absurd hcmd (not_or_intro hnak hrsp)

theorem rxScan_of_unexpected {f : Frame} {n : Nat} (h : decodeFrame s.cfg s.rxBuf = .ok f n)
    (hcmd : ¬ (f.cmd = s.reqNakCmd ∨ f.cmd = s.reqRspCmd)) :
    rxScan s = rxScan (dropRx n (markInvalid .unexpected s)) := by
  obtain ⟨hnak, hrsp⟩ := not_or.mp hcmd
  obtain ⟨h1, hn, -⟩ := decodeFrame_ok_bounds h
  rw [← rxLoop_dropRx (u := markInvalid .unexpected s) rfl h1 hn]
  simp only [rxScan, rxLoop, h, classify, if_neg hnak, if_neg hrsp, markInvalid]

end Turns

/-- Settles O38: one case for each answer of the decoder. -/
theorem rxByteRunsTheDecodeLoop : Obligations.RxByteRunsTheDecodeLoop := by
  refine ⟨fun s b hrx => exec_evRxByte b hrx, fun s => ?_⟩
  cases hd : decodeFrame s.cfg s.rxBuf with
  | incomplete => exact rxScan_of_incomplete hd
  | corrupt r k =>
    cases r with
    | noStart => exact rxScan_of_corrupt hd
    | length => exact rxScan_of_corrupt hd
    | checksum => exact rxScan_of_corrupt hd
  | ok f n =>
    by_cases hcmd : f.cmd = s.reqNakCmd ∨ f.cmd = s.reqRspCmd
    · exact (rxScan_of_awaited hd hcmd).trans (if_pos hcmd).symm
    · exact (rxScan_of_unexpected hd hcmd).trans (if_neg hcmd).symm

end Sys2Proof.Machine
end

section
/-! PROOFS. The decoder on garbage with a frame behind it, as the bytes come in: it waits, or it discards garbage and no more
than the garbage, or it has come to the frame (40_frame_codec.md R81, R82; 41_synchronizer.md R90). -/

namespace Sys2Proof.Machine

/-- A decoded frame stays decoded whatever bytes follow (40_frame_codec.md R84). -/
theorem decodeFrame_ok_append {cfg : Config} {B : List Byte} {f : Frame} {n : Nat} (h : decodeFrame cfg B = .ok f n)
    (R : List Byte) : decodeFrame cfg (B ++ R) = .ok f n := by
  obtain ⟨hlen, hn, -, -, -, htake⟩ := decodedFrameIsItsEncoding cfg B f n h
  rw [← List.take_append_drop n B, htake, List.append_assoc, frameRoundTrip _ _ _ _ _ hlen, encodeFrame_length, hn]

theorem encodeFrame_ne_nil (cfg : Config) (a c : Byte) (p : List Byte) : encodeFrame cfg a c p ≠ [] := by
  have := cfg.hdrLen_ge
  rw [← List.length_pos_iff, encodeFrame_length, cfg.frameLen_eq]
  omega

/-- The premise of the resynchronization property: where the garbage `G` before `F` begins plausibly, what follows is no frame
and does not wait for more bytes (41_synchronizer.md R90). -/
def FalseHeadersFail (cfg : Config) (G F : List Byte) : Prop :=
  ∀ i, i < G.length → plausible cfg (G ++ F) i = true → ∃ r k, decodeFrame cfg ((G ++ F).drop i) = .corrupt r k

theorem FalseHeadersFail.drop {cfg : Config} {G F : List Byte} (h : FalseHeadersFail cfg G F) {k : Nat}
    (hk : k ≤ G.length) : FalseHeadersFail cfg (G.drop k) F := by
  intro i hi hp
  rw [List.length_drop] at hi
  rw [plausible, ← List.drop_append_of_le_length hk, List.drop_drop] at hp
  rw [← List.drop_append_of_le_length hk, List.drop_drop]
  exact h (k + i) (by omega) hp

/-- With garbage before it, what is there is corrupt: it begins with a false header, or with no header. -/
theorem FalseHeadersFail.decodeFrame_eq {cfg : Config} {G F : List Byte} (h : FalseHeadersFail cfg G F) (hG : G ≠ []) :
    ∃ r k, decodeFrame cfg (G ++ F) = .corrupt r k := by
  have hlen := List.length_pos_iff.mpr hG
  by_cases hp : plausible cfg (G ++ F) 0 = true
  · simpa using h 0 hlen hp
  · exact ⟨_, _, decodeFrame_of_not_plausible (by rw [List.length_append]; omega) hp⟩

section Frame
variable {cfg : Config} {a c : Byte} {p B Z G : List Byte}

theorem plausibleHead_of_append_eq_encodeFrame (hF : B ++ Z = encodeFrame cfg a c p) (hB : B ≠ []) :
    plausibleHead cfg B = true := by
  have hp := plausible_encodeFrame_append cfg a c p []
  rw [List.append_nil, ← hF, plausible_zero] at hp
  exact plausibleHead_of_append hB hp

/-- A frame that lacks its last bytes is incomplete (40_frame_codec.md R82). -/
theorem decodeFrame_of_append_eq_encodeFrame (hp : p.length ≤ cfg.maxPayload) (hF : B ++ Z = encodeFrame cfg a c p)
    (hZ : Z ≠ []) : decodeFrame cfg B = .incomplete := by
  by_cases hB : B = []
  · rw [hB, decodeFrame_nil]
  have hplausible : plausible cfg B 0 = true := (plausible_zero cfg B).trans (plausibleHead_of_append_eq_encodeFrame hF hB)
  rcases Nat.lt_or_ge B.length cfg.hdrLen with hh | hh
  · exact decodeFrame_of_header_short hplausible hh
  · have hL : lengthField cfg B = p.length := by
      rw [← lengthField_encodeFrame_append cfg a c p [] hp, List.append_nil, ← hF]
      exact (lengthField_eq_iff.mpr (agreeOn_append B Z hh _)).symm
    have hlen := congrArg List.length hF
    rw [List.length_append, encodeFrame_length] at hlen
    have hpos := List.length_pos_iff.mpr hZ
    exact decodeFrame_of_short hplausible (hL ▸ hp) (by rw [hL]; omega)

/-- The discard of a corrupt buffer ends at the frame's own start marker at the latest. -/
theorem discard_le_garbage (hW : B ++ Z = G ++ encodeFrame cfg a c p) (hG : G ≠ []) {r : CorruptReason} {k : Nat}
    (hd : decodeFrame cfg B = .corrupt r k) : k ≤ G.length := by
  obtain ⟨-, hk, -, hskip⟩ := corruptResultMakesProgress cfg B r k hd
  by_contra! hlt
  have htail : B.drop G.length ++ Z = encodeFrame cfg a c p := by
    rw [← List.drop_append_of_le_length (hlt.le.trans hk), hW, List.drop_left]
  have hne : B.drop G.length ≠ [] := by
    rw [ne_eq, List.drop_eq_nil_iff]
    omega
  have hmarker : plausible cfg B G.length = true := plausibleHead_of_append_eq_encodeFrame htail hne
  have hnone := hskip G.length (List.length_pos_iff.mpr hG) hlt
  rw [hmarker] at hnone
  contradiction

/-- The buffer `B`, with the bytes `Z` to come, is garbage and a frame: it waits for `Z`, or is corrupt within the garbage, or
is the frame. -/
theorem decodeFrame_of_garbage (hp : p.length ≤ cfg.maxPayload) (hW : B ++ Z = G ++ encodeFrame cfg a c p)
    (hG : FalseHeadersFail cfg G (encodeFrame cfg a c p)) :
    (decodeFrame cfg B = .incomplete ∧ Z ≠ [])
      ∨ (∃ r k, decodeFrame cfg B = .corrupt r k ∧ k ≤ G.length)
      ∨ (B = encodeFrame cfg a c p ∧ Z = []) := by
  by_cases hempty : G = []
  · rw [hempty, List.nil_append] at hW
    by_cases hZ : Z = []
    · rw [hZ, List.append_nil] at hW
      exact .inr (.inr ⟨hW, hZ⟩)
    · exact .inl ⟨decodeFrame_of_append_eq_encodeFrame hp hW hZ, hZ⟩
  · obtain ⟨r, k, hwhole⟩ := hG.decodeFrame_eq hempty
    rw [← hW] at hwhole
    cases hd : decodeFrame cfg B with
    | incomplete =>
      refine .inl ⟨rfl, fun hZ => ?_⟩
      rw [hZ, List.append_nil, hd] at hwhole
      contradiction
    | corrupt r k => exact .inr (.inl ⟨r, k, rfl, discard_le_garbage hW hempty hd⟩)
    | ok f n =>
      rw [decodeFrame_ok_append hd] at hwhole
      contradiction

end Frame

end Sys2Proof.Machine
end

section
/-! PROOFS. Resynchronization: from an empty buffer, RXBUF and the bytes to come are always a rest of the garbage and the frame
behind it, so the last byte of the frame makes RXBUF the frame (41_synchronizer.md R90). -/

namespace Sys2Proof.Machine

/-- The block `s` differs from `s₀` in the synchronizer's own fields alone, and its RXBUF with the bytes `Z` to come is garbage
whose false headers fail and the frame `F`. -/
structure Hunting (s₀ : State) (F Z : List Byte) (s : State) : Prop where
  unchanged : ∃ B seen r, s = { s₀ with rxBuf := B, invSeen := seen, invRsn := r }
  garbage : ∃ G, s.rxBuf ++ Z = G ++ F ∧ FalseHeadersFail s₀.cfg G F

namespace Hunting
variable {s₀ s : State} {F Z : List Byte} {b : Byte}

theorem cfg_eq (h : Hunting s₀ F Z s) : s.cfg = s₀.cfg := by
  obtain ⟨B, seen, r, rfl⟩ := h.unchanged
  rfl

theorem phase_eq (h : Hunting s₀ F Z s) : s.phase = s₀.phase := by
  obtain ⟨B, seen, r, rfl⟩ := h.unchanged
  rfl

theorem reqRspCmd_eq (h : Hunting s₀ F Z s) : s.reqRspCmd = s₀.reqRspCmd := by
  obtain ⟨B, seen, r, rfl⟩ := h.unchanged
  rfl

theorem reqNakCmd_eq (h : Hunting s₀ F Z s) : s.reqNakCmd = s₀.reqNakCmd := by
  obtain ⟨B, seen, r, rfl⟩ := h.unchanged
  rfl

theorem after_appendRx (h : Hunting s₀ F (b :: Z) s) : Hunting s₀ F Z (appendRx b s) := by
  obtain ⟨⟨B, seen, r, rfl⟩, G, hW, hG⟩ := h
  exact ⟨⟨_, seen, r, rfl⟩, G, by rw [appendRx_rxBuf, ← List.append_cons, hW], hG⟩

/-- A discard within the garbage leaves a rest of the garbage before the frame. -/
theorem discard (h : Hunting s₀ F Z s) {G : List Byte} (hW : s.rxBuf ++ Z = G ++ F)
    (hG : FalseHeadersFail s₀.cfg G F) {k : Nat} (hk : k ≤ s.rxBuf.length) (hkG : k ≤ G.length) (r : CorruptReason) :
    Hunting s₀ F Z (dropRx k (noteCorrupt r s)) := by
  have hrest : s.rxBuf.drop k ++ Z = G.drop k ++ F := by
    rw [← List.drop_append_of_le_length hk, hW, List.drop_append_of_le_length hkG]
  obtain ⟨B, seen, rsn, rfl⟩ := h.unchanged
  cases r with
  | noStart => exact ⟨⟨_, seen, rsn, rfl⟩, _, hrest, hG.drop hkG⟩
  | length => exact ⟨⟨_, true, .length, rfl⟩, _, hrest, hG.drop hkG⟩
  | checksum => exact ⟨⟨_, true, .checksum, rfl⟩, _, hrest, hG.drop hkG⟩

end Hunting

section Deliver
variable {s₀ : State} {a c : Byte} {p : List Byte}

/-- The decode loop runs through the garbage until it waits for the bytes to come, or RXBUF is the frame. -/
theorem Hunting.rxScan_eq (hp : p.length ≤ s₀.cfg.maxPayload) {Z : List Byte} {s : State}
    (h : Hunting s₀ (encodeFrame s₀.cfg a c p) Z s) :
    ∃ u, Hunting s₀ (encodeFrame s₀.cfg a c p) Z u ∧ rxScan s = rxScan u
      ∧ ((decodeFrame u.cfg u.rxBuf = .incomplete ∧ Z ≠ []) ∨ (u.rxBuf = encodeFrame s₀.cfg a c p ∧ Z = [])) := by
  induction hlen : s.rxBuf.length using Nat.strong_induction_on generalizing s with
  | _ len ih =>
    obtain ⟨G, hW, hG⟩ := h.garbage
    rcases decodeFrame_of_garbage hp hW hG with ⟨hd, hZ⟩ | ⟨r, k, hd, hkG⟩ | hframe
    · exact ⟨s, h, rfl, .inl ⟨h.cfg_eq ▸ hd, hZ⟩⟩
    · obtain ⟨h1, hk⟩ := decodeFrame_corrupt_bounds hd
      have hless : (dropRx k (noteCorrupt r s)).rxBuf.length < len := by
        rw [dropRx_rxBuf, noteCorrupt_rxBuf, List.length_drop]
        omega
      obtain ⟨u, hu, he, hend⟩ := ih _ hless (h.discard hW hG hk hkG r) rfl
      exact ⟨u, hu, (rxScan_of_corrupt (h.cfg_eq ▸ hd)).trans he, hend⟩
    · exact ⟨s, h, rfl, .inr hframe⟩

theorem Hunting.after_rxScan (hp : p.length ≤ s₀.cfg.maxPayload) {Z : List Byte} (hZ : Z ≠ []) {s : State}
    (h : Hunting s₀ (encodeFrame s₀.cfg a c p) Z s) : Hunting s₀ (encodeFrame s₀.cfg a c p) Z (rxScan s) := by
  obtain ⟨u, hu, he, ⟨hd, -⟩ | ⟨-, hnone⟩⟩ := h.rxScan_eq hp
  · rwa [he, rxScan_of_incomplete hd]
  · exact absurd hnone hZ

/-- Bytes delivered before the last one end nothing. -/
theorem Hunting.after_delivery (hrx : s₀.phase = .rx) (hp : p.length ≤ s₀.cfg.maxPayload) {Y Z : List Byte} (hZ : Z ≠ [])
    {s : State} (h : Hunting s₀ (encodeFrame s₀.cfg a c p) (Y ++ Z) s) :
    Hunting s₀ (encodeFrame s₀.cfg a c p) Z (execNextAll (rxEvents Y) s) := by
  induction Y generalizing s with
  | nil => exact h
  | cons b Y ih =>
    have hbyte : execNext (.evRxByte b) s = rxByte b s := if_pos (h.phase_eq.trans hrx)
    have hnext := h.after_appendRx.after_rxScan hp (List.append_ne_nil_of_right_ne_nil Y hZ)
    rw [rxEvents, List.map_cons, execNextAll, List.foldl_cons, hbyte]
    exact ih hnext

/-- The last byte makes RXBUF the frame, and `classify` takes it. -/
theorem Hunting.rxByte_last (hp : p.length ≤ s₀.cfg.maxPayload) (hcmd : c = s₀.reqRspCmd ∨ c = s₀.reqNakCmd) {b : Byte}
    {s : State} (h : Hunting s₀ (encodeFrame s₀.cfg a c p) [b] s) :
    ∃ u, Hunting s₀ (encodeFrame s₀.cfg a c p) [] u ∧ rxByte b s = (classify ⟨a, c, p⟩ u).2 := by
  obtain ⟨u, hu, he, ⟨-, hmore⟩ | ⟨hframe, -⟩⟩ := h.after_appendRx.rxScan_eq hp
  · contradiction
  · have hok := frameRoundTrip s₀.cfg a c p [] hp
    rw [List.append_nil, ← hframe, ← hu.cfg_eq] at hok
    refine ⟨u, hu, he.trans (rxScan_of_awaited hok ?_)⟩
    rw [hu.reqNakCmd_eq, hu.reqRspCmd_eq]
    exact hcmd.symm

end Deliver

/-- An awaited frame ends the transaction with what it says (42_sequencer.md R95, R97). -/
theorem classify_of_awaited {a c : Byte} {p : List Byte} {s : State} (hp : p.length ≤ s.cfg.maxPayload)
    (hcmd : c = s.reqRspCmd ∨ c = s.reqNakCmd) :
    ∃ t, (classify ⟨a, c, p⟩ s).2 = t ∧ t.phase = .idle ∧ t.done = true
      ∧ t.outcome = (if c = s.reqNakCmd then .nak else .success) ∧ t.rspAddr = a ∧ t.rspCmdRx = c
      ∧ t.rxLen.toNat = p.length ∧ ∀ i, i < p.length → t.rxpByte i = byteAt p i := by
  have hlen : (BitVec.ofNat 16 p.length).toNat = p.length :=
    (BitVec.toNat_ofNat _ _).trans (Nat.mod_eq_of_lt (hp.trans_lt s.cfg.maxPayload_lt))
  rcases classify_cases ⟨a, c, p⟩ s with ⟨hnak, he⟩ | ⟨hnak, -, he⟩ | ⟨hnak, hrsp, -⟩
  · obtain ⟨hrxp, -⟩ := rxpByte_of_writeBytes
      (s := s) (t := finish .nak .none (recordNak ⟨a, c, p⟩ (record ⟨a, c, p⟩ s))) (p := p) rfl rfl
    exact ⟨_, congrArg Prod.snd he, rfl, rfl, (if_pos hnak).symm, rfl, rfl, hlen, hrxp⟩
  · obtain ⟨hrxp, -⟩ := rxpByte_of_writeBytes
      (s := s) (t := finish .success .none (record ⟨a, c, p⟩ s)) (p := p) rfl rfl
    exact ⟨_, congrArg Prod.snd he, rfl, rfl, (if_neg hnak).symm, rfl, rfl, hlen, hrxp⟩
  · exact absurd hcmd (not_or_intro hrsp hnak)

/-- Settles O42: the block hunts from the empty buffer up to the last byte, which completes the frame. -/
theorem resynchronizesAfterGarbage : Obligations.ResynchronizesAfterGarbage := by
  intro s G p a c hrx hempty hp hcmd hfail
  have hstart : Hunting s (encodeFrame s.cfg a c p) (G ++ encodeFrame s.cfg a c p) s :=
    ⟨⟨s.rxBuf, s.invSeen, s.invRsn, rfl⟩, G, by rw [hempty, List.nil_append], hfail⟩
  constructor
  · have hne := List.append_ne_nil_of_right_ne_nil G (encodeFrame_ne_nil s.cfg a c p)
    obtain ⟨Y, b, hY⟩ := (List.eq_nil_or_concat' (G ++ encodeFrame s.cfg a c p)).resolve_left hne
    rw [hY] at hstart
    have hlast := hstart.after_delivery hrx hp (List.cons_ne_nil b [])
    obtain ⟨u, hu, hbyte⟩ := hlast.rxByte_last hp hcmd
    have hrun : execAll (rxEvents (Y ++ [b])) s = .next (classify ⟨a, c, p⟩ u).2 := by
      rw [execAll_eq_next, rxEvents, List.map_append, execNextAll_append, ← hbyte]
      exact congrArg _ (if_pos (hlast.phase_eq.trans hrx))
    obtain ⟨t, ht, hresult⟩ := classify_of_awaited (a := a) (hu.cfg_eq ▸ hp) (hu.reqRspCmd_eq ▸ hu.reqNakCmd_eq ▸ hcmd)
    rw [hu.reqNakCmd_eq] at hresult
    exact ⟨t, hY ▸ ht ▸ hrun, hresult⟩
  · intro k hk
    have hrest : (G ++ encodeFrame s.cfg a c p).drop k ≠ [] := by
      rw [ne_eq, List.drop_eq_nil_iff]
      omega
    rw [← List.take_append_drop k (G ++ encodeFrame s.cfg a c p)] at hstart
    exact ⟨_, execAll_eq_next _ _, (hstart.after_delivery hrx hp hrest).phase_eq.trans hrx⟩

end Sys2Proof.Machine
end

section
/-! PROOFS. The sequencer one operation at a time: an accepted EXECUTE, a channel failure, a tick that counts down and one that
expires the attempt, and the table of the phase transitions (42_sequencer.md R92 to R103, R107; 43_host_ops.md R130). -/

namespace Sys2Proof.Machine

theorem executeCommand_of_accepted {s : State} (hidle : s.phase = .idle) (hlen : s.txLen.toNat ≤ s.cfg.maxPayload)
    (htime : s.timeout ≠ 0#16) : executeCommand s = execStart s := by
  rcases executeCommand_cases s with ⟨hbusy, -⟩ | ⟨-, hlong, -⟩ | ⟨-, -, hzero, -⟩ | ⟨-, -, -, he⟩
  · exact absurd hidle hbusy
  · omega
  · exact absurd hzero htime
  · exact he

/-- Settles O26: the three checks pass, and attempt 1 is the attempt after 0. -/
theorem acceptedExecuteStartsAttemptOne : Obligations.AcceptedExecuteStartsAttemptOne := by
  intro s hidle hlen htime
  rw [exec_eq_next, execNext, executeCommand_of_accepted hidle hlen htime]
  rfl

theorem chFailIfActive_of_active (r : Reason) {s : State} (hactive : s.phase = .tx ∨ s.phase = .rx) :
    chFailIfActive r s = chFail r s := by
  rcases hactive with hp | hp <;> rw [chFailIfActive, hp]

theorem chFailIfActive_of_inactive (r : Reason) {s : State} (hinactive : s.phase = .idle ∨ s.phase = .holdoff) :
    chFailIfActive r s = s := by
  rcases hinactive with hp | hp <;> rw [chFailIfActive, hp]

/-- Settles O45: both events are `chFailIfActive`. -/
theorem channelFailureEntersHoldoff : Obligations.ChannelFailureEntersHoldoff := by
  refine fun s => ⟨fun hactive => ?_, fun hinactive => ?_⟩
  · rw [exec_eq_next, exec_eq_next, execNext, execNext, chFailIfActive_of_active _ hactive,
      chFailIfActive_of_active _ hactive]
    exact ⟨rfl, rfl⟩
  · rw [exec_eq_next, exec_eq_next, execNext, execNext, chFailIfActive_of_inactive _ hinactive,
      chFailIfActive_of_inactive _ hinactive]
    exact ⟨rfl, rfl⟩

/-! ### The tick -/

theorem execNext_evTick_of_busy {s : State} (hbusy : s.phase ≠ .idle) : execNext .evTick s = tick s := if_neg hbusy

theorem tick_of_running {s : State} (hbusy : s.phase ≠ .idle) (hdl : s.dl ≠ 1#16) : tick s = countDown s := by
  rcases tick_cases s hbusy with ⟨-, he⟩ | ⟨hlast, -⟩ | ⟨hlast, -⟩
  · exact he
  · exact absurd hlast hdl
  · exact absurd hlast hdl

theorem tick_of_retry {s : State} (hbusy : s.phase ≠ .idle) (hdl : s.dl = 1#16)
    (hretry : mayRetry s (attemptFailure s).1) : tick s = attemptStart (countDown s) := by
  rcases tick_cases s hbusy with ⟨hrun, -⟩ | ⟨-, -, he⟩ | ⟨-, hend, -⟩
  · exact absurd hdl hrun
  · exact he
  · exact absurd hretry hend

theorem tick_of_expiry {s : State} (hbusy : s.phase ≠ .idle) (hdl : s.dl = 1#16)
    (hend : ¬ mayRetry s (attemptFailure s).1) :
    tick s = finish (attemptFailure s).1 (attemptFailure s).2 (countDown s) := by
  rcases tick_cases s hbusy with ⟨hrun, -⟩ | ⟨-, hretry, -⟩ | ⟨-, -, he⟩
  · exact absurd hdl hrun
  · exact absurd hretry hend
  · exact he

/-- DL does not wrap while it runs. -/
theorem countDown_dl_toNat {s : State} (hpos : 0 < s.dl.toNat) : (countDown s).dl.toNat = s.dl.toNat - 1 := by
  rw [countDown_dl]
  bv_omega

/-- Settles O46: with more than one tick left the tick is `countDown`. -/
theorem tickCountsDown : Obligations.TickCountsDown := by
  refine fun s => ⟨fun hbusy hdl => ⟨countDown s, ?_, rfl, countDown_dl_toNat (by omega)⟩, fun hidle => ?_⟩
  · have hrun : s.dl ≠ 1#16 := by bv_omega
    rw [exec_eq_next, execNext_evTick_of_busy hbusy, tick_of_running hbusy hrun]
  · rw [exec_eq_next, execNext, if_pos hidle]

/-- Settles O47: the two ends of an attempt, by the retry test. -/
theorem expiryRetriesOrEnds : Obligations.ExpiryRetriesOrEnds := by
  intro s hbusy hdl
  rw [exec_eq_next, execNext_evTick_of_busy hbusy]
  refine ⟨fun hretry => ?_, fun hend => ?_⟩
  · rw [tick_of_retry hbusy hdl hretry]
    rfl
  · rw [tick_of_expiry hbusy hdl hend]
    rfl

/-! ### The phase transitions -/

/-- The decode loop leaves the block in its phase, or ends the transaction by a response or a NAK. -/
theorem RxEnd.phase_cases {s t : State} (h : RxEnd s t) :
    t.phase = s.phase ∨ (t.phase = .idle ∧ t.done = true ∧ (t.outcome = .success ∨ t.outcome = .nak)) := by
  cases h with
  | wait => exact .inl rfl
  | nak => exact .inr ⟨rfl, rfl, .inr rfl⟩
  | success => exact .inr ⟨rfl, rfl, .inl rfl⟩

/-- Settles O48: the effects of the operations, in the order of the table. -/
theorem phaseTransitionsAreComplete : Obligations.PhaseTransitionsAreComplete := by
  intro i s t hexec
  cases exec_effect hexec with
  | answer | refuse | ack | request | countDown => exact .inl rfl
  | execute _ hidle hlen htime => exact .inr (.inl ⟨hidle, rfl, rfl, hlen, htime⟩)
  | txAccept htx =>
    by_cases hlast : (s.txIdx + 1#17).toNat = s.cfg.frameLen s.txLen.toNat
    · exact .inr (.inr (.inl ⟨htx, if_pos hlast, rfl, hlast⟩))
    · exact .inl (if_neg hlast)
  | chFail _ r hactive hi => exact .inr (.inr (.inr (.inl ⟨hactive, rfl, hi.imp And.left And.left⟩)))
  | rxByte b _ hrx hend =>
    rcases hend.phase_cases with hp | ⟨hidle, hdone, houtcome⟩
    · exact .inl hp
    · exact .inr (.inr (.inr (.inr (.inl ⟨hrx, hidle, hdone, houtcome, b, rfl⟩))))
  | retry hbusy hdl hretry => exact .inr (.inr (.inr (.inr (.inr (.inl ⟨hbusy, rfl, rfl, hdl, hretry⟩)))))
  | expire hbusy hdl hend => exact .inr (.inr (.inr (.inr (.inr (.inr ⟨hbusy, rfl, rfl, rfl, hdl, hend⟩)))))

end Sys2Proof.Machine
end

section
/-! PROOFS. A cycle as its channel and tick sub-steps with one host access after them: the events of the cycle are
`channelSteps`, they do not look at the inputs still to come, and the host access does to the state they leave what one
operation does (44_cycle.md R134). -/

namespace Sys2Proof.Machine

/-! ### The events of a cycle -/

section
variable (b closed err : Bool) (s : State)

theorem execNextAll_txLine : execNextAll (if b then [.evTxAccept] else []) s
    = if s.phase = .tx ∧ b = true then txAccept s else s := by
  cases b <;> simp [execNextAll, execNext]

theorem execNextAll_rxLine (d : Byte) : execNextAll (if b then [.evRxByte d] else []) s
    = if b = true ∧ s.phase = .rx then rxByte d s else s := by
  cases b <;> simp [execNextAll, execNext]

theorem execNextAll_tickLine : execNextAll (if b then [.evTick] else []) s
    = if b = true ∧ s.phase ≠ .idle then tick s else s := by
  cases b <;> simp [execNextAll, execNext]

theorem chFailIfActive_eq_ite (r : Reason) :
    chFailIfActive r s = if s.phase = .tx ∨ s.phase = .rx then chFail r s else s := by
  split
  case isTrue hactive => exact chFailIfActive_of_active r hactive
  case isFalse hinactive =>
    rcases chFailIfActive_cases r s with ⟨hactive, -⟩ | ⟨-, he⟩
    · exact absurd hactive hinactive
    · exact he

/-- The first of two channel failures leaves nothing for the second (42_sequencer.md R100). -/
theorem chFailIfActive_chFailIfActive (r r' : Reason) : chFailIfActive r' (chFailIfActive r s) = chFailIfActive r s := by
  refine chFailIfActive_of_inactive r' ?_
  rcases chFailIfActive_cases r s with ⟨-, he⟩ | ⟨hinactive, he⟩ <;> rw [he]
  · exact .inr rfl
  · exact hinactive

theorem execNextAll_failureLines :
    execNextAll (if err then [.evChError] else []) (execNextAll (if closed then [.evChClosed] else []) s)
      = if (s.phase = .tx ∨ s.phase = .rx) ∧ (closed = true ∨ err = true) then
          chFail (if closed then .closed else .ioError) s
        else s := by
  cases closed with
  | false => cases err <;> simp [execNextAll, execNext, chFailIfActive_eq_ite]
  | true =>
    have hsecond : execNextAll (if err then [.evChError] else []) (chFailIfActive .closed s) = chFailIfActive .closed s := by
      cases err with
      | false => rfl
      | true => exact chFailIfActive_chFailIfActive s .closed .ioError
    refine hsecond.trans ?_
    simp [chFailIfActive_eq_ite]

end

/-- The events of a cycle are the sub-steps 2 to 5 of 44_cycle.md R134. -/
theorem execNextAll_decodeEvents (c : Cycle) (s : State) : execNextAll (decodeEvents c.iv) s = channelSteps c s := by
  simp only [decodeEvents, execNextAll_append, execNextAll_failureLines, execNextAll_txLine, execNextAll_rxLine,
    execNextAll_tickLine]
  rfl

/-- In IDLE no event does anything (41_synchronizer.md R87; 42_sequencer.md R94, R100, R102). -/
theorem execNext_event_of_idle {i : Instr} (hi : IsEvent i) {s : State} (hidle : s.phase = .idle) : execNext i s = s := by
  cases hi with
  | txAccept | rxByte => exact if_neg (by simp [hidle])
  | chClosed | chError => exact chFailIfActive_of_inactive _ (.inl hidle)
  | tick => exact if_pos hidle

theorem execNextAll_events_of_idle {is : List Instr} (his : ∀ i ∈ is, IsEvent i) {s : State} (hidle : s.phase = .idle) :
    execNextAll is s = s := by
  induction is with
  | nil => rfl
  | cons i is ih =>
    obtain ⟨hi, his⟩ := List.forall_mem_cons.mp his
    rw [execNextAll, List.foldl_cons, execNext_event_of_idle hi hidle]
    exact ih his

theorem channelSteps_of_idle (c : Cycle) {s : State} (hidle : s.phase = .idle) : channelSteps c s = s := by
  rw [← execNextAll_decodeEvents]
  exact execNextAll_events_of_idle (fun _ => isEvent_of_mem_decodeEvents) hidle

/-! ### The events do not look at the inputs to come -/

/-- The state `s` with the inputs `cs` to come. -/
def withInputs (cs : List Cycle) (s : State) : State := { s with inputs := cs }

section
variable (cs : List Cycle) (s : State)

@[simp] theorem withInputs_phase : (withInputs cs s).phase = s.phase := rfl

theorem tick_withInputs (hbusy : s.phase ≠ .idle) : tick (withInputs cs s) = withInputs cs (tick s) := by
  rcases tick_cases s hbusy with ⟨hdl, he⟩ | ⟨hdl, hretry, he⟩ | ⟨hdl, hend, he⟩ <;> rw [he]
  · exact tick_of_running (s := withInputs cs s) hbusy hdl
  · exact tick_of_retry (s := withInputs cs s) hbusy hdl hretry
  · exact tick_of_expiry (s := withInputs cs s) hbusy hdl hend

theorem chFailIfActive_withInputs (r : Reason) :
    chFailIfActive r (withInputs cs s) = withInputs cs (chFailIfActive r s) := by
  rcases chFailIfActive_cases r s with ⟨hactive, he⟩ | ⟨hinactive, he⟩ <;> rw [he]
  · exact chFailIfActive_of_active r (s := withInputs cs s) hactive
  · exact chFailIfActive_of_inactive r (s := withInputs cs s) hinactive

end

theorem classify_withInputs (cs : List Cycle) (f : Frame) (s : State) :
    classify f (withInputs cs s) = ((classify f s).1, withInputs cs (classify f s).2) := by
  have hnak : (withInputs cs s).reqNakCmd = s.reqNakCmd := rfl
  have hrsp : (withInputs cs s).reqRspCmd = s.reqRspCmd := rfl
  rw [classify, classify, hnak, hrsp]
  split_ifs <;> rfl

theorem rxLoop_withInputs (cs : List Cycle) (fuel : Nat) (s : State) :
    rxLoop fuel (withInputs cs s) = withInputs cs (rxLoop fuel s) := by
  induction fuel generalizing s with
  | zero => rfl
  | succ fuel ih =>
    have hdecode : decodeFrame (withInputs cs s).cfg (withInputs cs s).rxBuf = decodeFrame s.cfg s.rxBuf := rfl
    rw [rxLoop, rxLoop, hdecode]
    split
    case h_1 => rfl
    case h_2 k _ => exact ih (dropRx k s)
    case h_3 k _ => exact ih (dropRx k (markInvalid .length s))
    case h_4 k _ => exact ih (dropRx k (markInvalid .checksum s))
    case h_5 f n _ =>
      rw [classify_withInputs]
      obtain ⟨verdict, t⟩ := classify f s
      cases verdict with
      | terminal => rfl
      | goOn => exact ih (dropRx n t)

theorem execNext_withInputs {i : Instr} (hi : IsEvent i) (cs : List Cycle) (s : State) :
    execNext i (withInputs cs s) = withInputs cs (execNext i s) := by
  cases hi with
  | txAccept =>
    simp only [execNext, withInputs_phase, apply_ite (withInputs cs)]
    rfl
  | rxByte b =>
    simp only [execNext, withInputs_phase, apply_ite (withInputs cs)]
    rw [rxByte, rxByte, rxScan, rxScan, ← rxLoop_withInputs]
    rfl
  | chClosed => exact chFailIfActive_withInputs cs s .closed
  | chError => exact chFailIfActive_withInputs cs s .ioError
  | tick =>
    by_cases hidle : s.phase = .idle
    · simp [execNext, hidle]
    · simp [execNext, hidle, tick_withInputs cs s hidle]

theorem execNextAll_withInputs {is : List Instr} (his : ∀ i ∈ is, IsEvent i) (cs : List Cycle) (s : State) :
    execNextAll is (withInputs cs s) = withInputs cs (execNextAll is s) := by
  induction is generalizing s with
  | nil => rfl
  | cons i is ih =>
    obtain ⟨hi, his⟩ := List.forall_mem_cons.mp his
    calc execNextAll is (execNext i (withInputs cs s))
      _ = execNextAll is (withInputs cs (execNext i s)) := by rw [execNext_withInputs hi]
      _ = withInputs cs (execNextAll is (execNext i s)) := ih his _

/-- The events of a cycle at its start, where its outputs are driven and its inputs taken. -/
theorem execNextAll_beginCycle (c : Cycle) (rest : List Cycle) (s : State) :
    execNextAll (decodeEvents c.iv) (beginCycle { s with inputs := rest })
      = withOutputs (cycleOutputs s) (withInputs rest (channelSteps c s)) := by
  have hevents : ∀ i ∈ decodeEvents c.iv, IsEvent i := fun _ => isEvent_of_mem_decodeEvents
  calc execNextAll (decodeEvents c.iv) (withOutputs (cycleOutputs s) (withInputs rest s))
    _ = withOutputs (cycleOutputs s) (withInputs rest (execNextAll (decodeEvents c.iv) s)) := by
      rw [execNextAll_withOutputs hevents, execNextAll_withInputs hevents]
    _ = _ := by rw [execNextAll_decodeEvents]

/-! ### The host access of a cycle -/

/-- No host access is an event. -/
theorem not_isEvent_of_accessDecode {cfg : Config} {a : Access} {i : Instr} (h : AccessDecode cfg a i) : ¬ IsEvent i := by
  cases h with
  | malformed | unmapped => nofun
  | register r =>
    split
    · cases r
      case ctrl =>
        rw [decodeCsrWrite]
        rcases decodeCtrl_cases a.hwdata with ⟨-, h⟩ | ⟨-, h⟩ | ⟨-, h⟩ | ⟨-, h⟩ <;> rw [h] <;> nofun
      all_goals nofun
    · cases r <;> nofun
  | txWindow | rxWindow => split <;> nofun

/-- A cycle without reset leaves what its host access makes of the state that its channel and tick sub-steps leave; a host
read makes nothing of it but outputs, and so does no access (44_cycle.md R134). -/
theorem stepNext_effect {s : State} {c : Cycle} {rest : List Cycle} (hinputs : s.inputs = c :: rest)
    (hrst : c.rst = false) :
    ∃ o i, ¬ IsEvent i ∧ (startsNothing s.cfg c → i ≠ .ctrlExecute)
      ∧ OpEffect (withOutputs o (withInputs rest (channelSteps c s))) i (stepNext s) := by
  have hstep := stepNext_of_not_rst hinputs hrst
  cases haccess : c.access with
  | none =>
    have hcycle : cycleOps s.cfg c = decodeEvents c.iv := by simp [cycleOps, haccess]
    rw [hcycle, execNextAll_beginCycle] at hstep
    exact ⟨cycleOutputs s, .ctrlNop, nofun, fun _ => nofun, hstep ▸ .unchanged _ _⟩
  | some a =>
    cases hwrite : a.hwrite with
    | false =>
      have hevents : ∀ i ∈ decodeEvents c.iv, IsEvent i := fun _ => isEvent_of_mem_decodeEvents
      obtain ⟨v, e, hread⟩ := execNextAll_read_cons (cfg := s.cfg) hwrite hevents (beginCycle { s with inputs := rest })
      rw [cycleOps_of_read haccess hwrite, hread, execNextAll_beginCycle] at hstep
      refine ⟨{ cycleOutputs s with hrdata := v, busErr := e }, .ctrlNop, nofun, fun _ => nofun, ?_⟩
      rw [hstep]
      exact .unchanged _ _
    | true =>
      have hcycle : cycleOps s.cfg c = decodeEvents c.iv ++ [decodeAccess s.cfg a] := by
        simp [cycleOps, haccess, hwrite]
      rw [hcycle, execNextAll_append, execNextAll_beginCycle] at hstep
      exact ⟨cycleOutputs s, decodeAccess s.cfg a, not_isEvent_of_accessDecode (decodeAccess_decode s.cfg a),
        fun hquiet => hquiet.2 a haccess, hstep ▸ execNext_effect _ _⟩

end Sys2Proof.Machine
end

section
/-! PROOFS. The ticks that a transaction has left, which every tick takes one from and nothing else changes, so that the
transaction ends within its budget (42_sequencer.md R101, R102, R104). -/

namespace Sys2Proof.Machine

/-! ### Runs of steps -/

theorem core_run_eq_next (n : Nat) (s : State) : core.run n s = .next (stepNext^[n] s) := by
  induction n generalizing s with
  | zero => rfl
  | succ n ih =>
    have hstep : core.step s = .next (stepNext s) := step_eq_next s
    simp only [Host.Core.run, hstep]
    exact ih (stepNext s)

theorem stepNext_cfg (s : State) : (stepNext s).cfg = s.cfg := (stepNext_sameBlock s).cfg

theorem stepNext_inputs {s : State} {c : Cycle} {rest : List Cycle} (hinputs : s.inputs = c :: rest) :
    (stepNext s).inputs = rest := by
  rw [(stepNext_sameBlock s).inputs, takeCycle_inputs, hinputs, List.tail_cons]

/-- After the cycles `cs` the block has the cycles behind them to come, and is in a state of the invariant. -/
theorem iterate_stepNext {s : State} (h : Inv s) {cs rest : List Cycle} (hinputs : s.inputs = cs ++ rest) :
    Inv (stepNext^[cs.length] s) ∧ (stepNext^[cs.length] s).cfg = s.cfg ∧ (stepNext^[cs.length] s).inputs = rest := by
  induction cs generalizing s with
  | nil => exact ⟨h, rfl, hinputs⟩
  | cons c cs ih =>
    obtain ⟨hinv, hcfg, hrest⟩ := ih (stepNext_inv h) (stepNext_inputs hinputs)
    exact ⟨hinv, hcfg.trans (stepNext_cfg s), hrest⟩

theorem tickCount_cons (c : Cycle) (cs : List Cycle) : tickCount (c :: cs) = tickCount cs + tickCount [c] := by
  simp only [tickCount, List.countP_cons, List.countP_nil, Nat.zero_add]

/-! ### The host access beside a transaction -/

section
variable {i : Instr} {s t : State}

/-- While busy a host access touches the flags that the host clears, the contract error and the outputs (10_state.md R38;
43_host_ops.md R130, R131). -/
theorem OpEffect.host_of_busy (h : OpEffect s i t) (hi : ¬ IsEvent i) (hbusy : s.phase ≠ .idle) :
    ∃ done err code o, t = { s with done := done, err := err, errCode := code, out := o } := by
  cases h with
  | answer _ o => exact ⟨_, _, _, o, rfl⟩
  | refuse _ code o => exact ⟨_, _, _, o, rfl⟩
  | ack o => exact ⟨_, _, _, o, rfl⟩
  | request _ _ _ _ _ _ hidle | execute _ hidle => exact absurd hidle hbusy
  | txAccept => exact absurd .txAccept hi
  | rxByte b => exact absurd (.rxByte b) hi
  | chFail _ _ _ hfail =>
    rcases hfail with ⟨rfl, -⟩ | ⟨rfl, -⟩
    · exact absurd .chClosed hi
    · exact absurd .chError hi
  | countDown | retry | expire => exact absurd .tick hi

/-- The block is idle with the result of a transaction: its outcome, its reason, its attempts. -/
structure IdleWith (o : TxnOutcome) (r : Reason) (n : BitVec 9) (s : State) : Prop where
  phase : s.phase = .idle
  outcome : s.outcome = o
  reason : s.reason = r
  attempts : s.attempts = n

/-- The result stays until an EXECUTE (60_exceptions.md R141). -/
theorem OpEffect.idleWith (h : OpEffect s i t) (hi : i ≠ .ctrlExecute) {o : TxnOutcome} {r : Reason} {n : BitVec 9}
    (hs : IdleWith o r n s) : IdleWith o r n t := by
  obtain ⟨hidle, houtcome, hreason, hattempts⟩ := hs
  cases h with
  | execute => exact absurd rfl hi
  | txAccept htx => simp [hidle] at htx
  | rxByte _ _ hrx => simp [hidle] at hrx
  | chFail _ _ hactive => simp [hidle] at hactive
  | countDown hbusy | retry hbusy | expire hbusy => exact absurd hidle hbusy
  | _ => exact ⟨hidle, houtcome, hreason, hattempts⟩

end

section
variable {s : State} {c : Cycle} {rest : List Cycle}

/-- A cycle whose channel and tick sub-steps leave the block busy. -/
theorem stepNext_of_busy (hinputs : s.inputs = c :: rest) (hrst : c.rst = false)
    (hbusy : (channelSteps c s).phase ≠ .idle) :
    ∃ done err code o, stepNext s
      = { channelSteps c s with done := done, err := err, errCode := code, out := o, inputs := rest } := by
  obtain ⟨o, i, hi, -, heffect⟩ := stepNext_effect hinputs hrst
  generalize channelSteps c s = e at hbusy heffect ⊢
  exact heffect.host_of_busy hi hbusy

/-- A cycle whose channel and tick sub-steps leave the block idle, and which starts no transaction. -/
theorem stepNext_of_idle (hinputs : s.inputs = c :: rest) (hquiet : startsNothing s.cfg c) {o : TxnOutcome} {r : Reason}
    {n : BitVec 9} (hend : IdleWith o r n (channelSteps c s)) : IdleWith o r n (stepNext s) := by
  obtain ⟨_, i, -, hi, heffect⟩ := stepNext_effect hinputs hquiet.1
  exact heffect.idleWith (hi hquiet) { hend with }

end

/-! ### The ticks left -/

/-- What is left of the attempt, and a TIMEOUT for each attempt to come (42_sequencer.md R104). -/
def ticksLeft (s : State) : Nat :=
  s.dl.toNat + (s.maxRetries.toNat + 1 - s.attempts.toNat) * s.timeout.toNat

theorem BusyInv.ticksLeft_pos {s : State} (h : BusyInv s) : 0 < ticksLeft s :=
  h.dl_pos.trans_le (Nat.le_add_right _ _)

theorem BusyInv.ticksLeft_le {s : State} (h : BusyInv s) : ticksLeft s ≤ tickBudget s := by
  have hpos := h.attempts_pos
  calc ticksLeft s
    _ ≤ s.timeout.toNat + s.maxRetries.toNat * s.timeout.toNat :=
      Nat.add_le_add h.dl_le (Nat.mul_le_mul_right _ (by omega))
    _ = tickBudget s := by rw [tickBudget, Nat.succ_mul, Nat.add_comm]

theorem ticksLeft_countDown {s : State} (hpos : 0 < s.dl.toNat) : ticksLeft (countDown s) + 1 = ticksLeft s := by
  simp only [ticksLeft, countDown_dl_toNat hpos, countDown_attempts, countDown_maxRetries, countDown_timeout]
  omega

/-- The tick that expires an attempt, where another follows: the TIMEOUT of the next attempt was set aside for it. -/
theorem ticksLeft_attemptStart {s : State} (hdl : s.dl = 1#16) (hattempts : s.attempts.toNat ≤ s.maxRetries.toNat) :
    ticksLeft (attemptStart s) + 1 = ticksLeft s := by
  have hmax := s.maxRetries.isLt
  have hsucc : (s.attempts + 1#9).toNat = s.attempts.toNat + 1 := by bv_omega
  obtain ⟨k, hk⟩ := Nat.exists_eq_add_of_le hattempts
  have hleft : s.maxRetries.toNat + 1 - s.attempts.toNat = k + 1 := by omega
  have hnext : s.maxRetries.toNat + 1 - (s.attempts.toNat + 1) = k := by omega
  simp only [ticksLeft, attemptStart_dl, attemptStart_attempts, attemptStart_maxRetries, attemptStart_timeout, hsucc, hdl,
    hleft, hnext, Nat.succ_mul, BitVec.toNat_ofNat]
  omega

/-- What becomes of the transaction in `s` over `k` ticks: it has ended, or it goes on with so many ticks fewer left. -/
inductive Advance (k : Nat) (s t : State) : Prop where
  | ended (hidle : t.phase = .idle) (hdone : t.done = true)
  | running (hbusy : t.phase ≠ .idle) (hticks : ticksLeft t + k = ticksLeft s)

theorem tick_advance {s : State} (h : BusyInv s) (hbusy : s.phase ≠ .idle) : Advance 1 s (tick s) := by
  rcases tick_cases s hbusy with ⟨-, he⟩ | ⟨hdl, hretry, he⟩ | ⟨-, -, he⟩ <;> rw [he]
  · exact .running hbusy (ticksLeft_countDown h.dl_pos)
  · exact .running nofun (ticksLeft_attemptStart hdl hretry.2)
  · exact .ended rfl rfl

theorem RxEnd.advance {s t : State} (h : RxEnd s t) (hbusy : s.phase ≠ .idle) : Advance 0 s t := by
  cases h with
  | wait => exact .running hbusy rfl
  | nak | success => exact .ended rfl rfl

theorem execNext_advance {i : Instr} (hi : IsEvent i) {s : State} (h : BusyInv s) (hbusy : s.phase ≠ .idle) :
    Advance (if i = .evTick then 1 else 0) s (execNext i s) := by
  cases hi with
  | txAccept =>
    rw [if_neg nofun, execNext]
    split
    · refine .running ?_ rfl
      rw [txAccept_phase]
      split
      · nofun
      · exact hbusy
    · exact .running hbusy rfl
  | rxByte b =>
    rw [if_neg nofun, execNext]
    split
    · exact (rxByte_rxEnd b s).advance hbusy
    · exact .running hbusy rfl
  | chClosed | chError =>
    rw [if_neg nofun, execNext]
    rcases chFailIfActive_cases _ s with ⟨-, he⟩ | ⟨-, he⟩ <;> rw [he]
    · exact .running nofun rfl
    · exact .running hbusy rfl
  | tick =>
    rw [if_pos rfl, execNext_evTick_of_busy hbusy]
    exact tick_advance h hbusy

theorem execNextAll_advance {is : List Instr} (his : ∀ i ∈ is, IsEvent i) {s : State} (h : Inv s)
    (hbusy : s.phase ≠ .idle) : Advance (is.count .evTick) s (execNextAll is s) := by
  induction is generalizing s with
  | nil => exact .running hbusy rfl
  | cons i is ih =>
    obtain ⟨hi, hrest⟩ := List.forall_mem_cons.mp his
    have hcount : (i :: is).count .evTick = is.count .evTick + if i = .evTick then 1 else 0 := by
      simp [List.count_cons]
    rw [execNextAll, List.foldl_cons, ← execNextAll, hcount]
    cases execNext_advance hi (h.busy hbusy) hbusy with
    | ended hidle hdone =>
      rw [execNextAll_events_of_idle hrest hidle]
      exact .ended hidle hdone
    | running hbusy' hticks =>
      cases ih hrest (h.ofEffect (execNext_effect i s)) hbusy' with
      | ended hidle hdone => exact .ended hidle hdone
      | running hgoing hleft => exact .running hgoing (by omega)

theorem count_evTick_decodeEvents (c : Cycle) : (decodeEvents c.iv).count .evTick = tickCount [c] := by
  simp [decodeEvents, tickCount, Cycle.isTick, List.countP_singleton, apply_ite (List.count Instr.evTick)]

theorem channelSteps_advance (c : Cycle) {s : State} (h : Inv s) (hbusy : s.phase ≠ .idle) :
    Advance (tickCount [c]) s (channelSteps c s) := by
  rw [← execNextAll_decodeEvents, ← count_evTick_decodeEvents]
  exact execNextAll_advance (fun _ => isEvent_of_mem_decodeEvents) h hbusy

theorem channelSteps_inv (c : Cycle) {s : State} (h : Inv s) : Inv (channelSteps c s) := by
  rw [← execNextAll_decodeEvents]
  exact execNextAll_inv h _

/-! ### The end of the transaction -/

/-- With ticks to come for all that the transaction has left, one of the cycles ends it: by induction on the cycles, each of
which ends it or takes its ticks from those left. -/
theorem exists_ending_cycle {s : State} (h : Inv s) (hbusy : s.phase ≠ .idle) {inputs : List Cycle}
    (hinputs : s.inputs = inputs) (hrst : ∀ c ∈ inputs, c.rst = false) (hticks : ticksLeft s ≤ tickCount inputs) :
    ∃ cs c rest, inputs = cs ++ c :: rest ∧ tickCount cs < ticksLeft s ∧ (stepNext^[cs.length] s).phase ≠ .idle
      ∧ (channelSteps c (stepNext^[cs.length] s)).phase = .idle
      ∧ (channelSteps c (stepNext^[cs.length] s)).done = true := by
  have hpos := (h.busy hbusy).ticksLeft_pos
  induction inputs generalizing s with
  | nil => exact absurd hticks (not_le.mpr hpos)
  | cons c rest ih =>
    obtain ⟨hc, hrest⟩ := List.forall_mem_cons.mp hrst
    cases channelSteps_advance c h hbusy with
    | ended hidle hdone => exact ⟨[], c, rest, rfl, hpos, hbusy, hidle, hdone⟩
    | running hbusy' hleft =>
      obtain ⟨_, _, _, _, hstep⟩ := stepNext_of_busy hinputs hc hbusy'
      have hphase : (stepNext s).phase ≠ .idle := hstep ▸ hbusy'
      have hsame : ticksLeft (stepNext s) = ticksLeft (channelSteps c s) := by rw [hstep]; rfl
      have hinv := stepNext_inv h
      rw [tickCount_cons] at hticks
      obtain ⟨cs, d, rest', rfl, hlt, hend⟩ :=
        ih hinv hphase (stepNext_inputs hinputs) hrest (by omega) (hinv.busy hphase).ticksLeft_pos
      refine ⟨c :: cs, d, rest', rfl, ?_, hend⟩
      rw [tickCount_cons]
      omega

/-- Settles O55: the ticks left are no more than the budget, and a cycle that starts nothing keeps the result. -/
theorem transactionEndsWithinItsTicks : Obligations.TransactionEndsWithinItsTicks := by
  intro s h hbusy hrst hbudget
  have hle := (h.busy hbusy).ticksLeft_le
  obtain ⟨cs, c, rest, hinputs, hticks, hrunning, hidle, hdone⟩ :=
    exists_ending_cycle h hbusy rfl hrst (hle.trans hbudget)
  obtain ⟨hinv, hcfg, hnext⟩ := iterate_stepNext h hinputs
  refine ⟨cs, rest, c, _, _, hinputs, hticks.trans_le hle, core_run_eq_next _ s, hrunning, rfl, hidle, hdone,
    (channelSteps_inv c hinv).result.done hdone, fun hquiet => ⟨_, core_run_eq_next _ s, ?_⟩⟩
  rw [Function.iterate_succ_apply']
  obtain ⟨hphase, houtcome, hreason, -⟩ := stepNext_of_idle hnext (hcfg ▸ hquiet) ⟨hidle, rfl, rfl, rfl⟩
  exact ⟨hphase, houtcome, hreason⟩

end Sys2Proof.Machine
end

section
/-! PROOFS. A transaction on a channel that delivers nothing: each attempt lasts its TIMEOUT and is retried while retries
remain, so that the ticks left tell the attempt and the last of them ends the transaction as TIMEOUT (42_sequencer.md R98,
R99, R102, R103, R105). -/

namespace Sys2Proof.Machine

/-! ### The wait -/

/-- A transaction that nothing has been received for, and whose timeouts may be retried. -/
structure Awaiting (s : State) : Prop where
  inv : Inv s
  phase : s.phase = .tx ∨ s.phase = .rx
  invSeen : s.invSeen = false
  retry : s.retryOnTimeout = true

/-- From `s` the transaction has come to `t` in `k` ticks: it waits still, under the same policy, with so many ticks fewer
left. -/
structure WaitsOn (k : Nat) (s t : State) : Prop where
  awaiting : Awaiting t
  policy : t.policy = s.policy
  ticks : ticksLeft t + k = ticksLeft s

theorem WaitsOn.timeout_eq {k : Nat} {s t : State} (h : WaitsOn k s t) : t.timeout = s.timeout :=
  congrArg (BitVec.extractLsb' 0 16) h.policy

theorem WaitsOn.maxRetries_eq {k : Nat} {s t : State} (h : WaitsOn k s t) : t.maxRetries = s.maxRetries :=
  congrArg (BitVec.extractLsb' 16 8) h.policy

theorem WaitsOn.trans {j k : Nat} {s t u : State} (h : WaitsOn j s t) (h' : WaitsOn k t u) : WaitsOn (k + j) s u :=
  ⟨h'.awaiting, h'.policy.trans h.policy, by rw [← h.ticks, ← h'.ticks, Nat.add_assoc]⟩

section
variable {s : State}

theorem Awaiting.busy (h : Awaiting s) : s.phase ≠ .idle := by
  rcases h.phase with hp | hp <;> simp [hp]

theorem Awaiting.busyInv (h : Awaiting s) : BusyInv s := h.inv.busy h.busy

theorem Awaiting.attemptFailure_eq (h : Awaiting s) : attemptFailure s = (.timeout, .deadline) := by
  have hholdoff : s.phase ≠ .holdoff := by rcases h.phase with hp | hp <;> simp [hp]
  simp [attemptFailure, hholdoff, h.invSeen]

theorem Awaiting.mayRetry_iff (h : Awaiting s) :
    mayRetry s (attemptFailure s).1 ↔ s.attempts.toNat ≤ s.maxRetries.toNat := by
  simp [h.attemptFailure_eq, mayRetry, h.retry]

/-- The last tick left is the last of the last attempt. -/
theorem BusyInv.ticksLeft_eq_one_iff (h : BusyInv s) :
    ticksLeft s = 1 ↔ s.dl = 1#16 ∧ s.attempts.toNat = s.maxRetries.toNat + 1 := by
  obtain ⟨-, -, -, hpos, hle, -, hattempts⟩ := h
  have hdl : s.dl = 1#16 ↔ s.dl.toNat = 1 := by simp [← BitVec.toNat_inj]
  have hrest : (s.maxRetries.toNat + 1 - s.attempts.toNat) * s.timeout.toNat = 0
      ↔ s.attempts.toNat = s.maxRetries.toNat + 1 := by
    rw [Nat.mul_eq_zero]
    omega
  rw [hdl, ← hrest, ticksLeft]
  omega

/-- A tick that is not the last one left counts down, or expires an attempt that is retried. -/
theorem tick_waitsOn (h : Awaiting s) (hticks : ticksLeft s ≠ 1) : WaitsOn 1 s (tick s) := by
  have hinv : Inv (tick s) := h.inv.ofEffect (tick_effect s h.busy)
  rcases tick_cases s h.busy with ⟨-, he⟩ | ⟨hdl, hretry, he⟩ | ⟨hdl, hend, -⟩
  · rw [he] at hinv ⊢
    exact ⟨⟨hinv, h.phase, h.invSeen, h.retry⟩, rfl, ticksLeft_countDown h.busyInv.dl_pos⟩
  · rw [he] at hinv ⊢
    exact ⟨⟨hinv, .inl rfl, rfl, h.retry⟩, rfl, ticksLeft_attemptStart hdl hretry.2⟩
  · rw [h.mayRetry_iff] at hend
    have hlast := h.busyInv.attempts_le
    exact absurd (h.busyInv.ticksLeft_eq_one_iff.mpr ⟨hdl, by omega⟩) hticks

/-- The last tick left ends the transaction. -/
theorem tick_of_last (h : Awaiting s) (hticks : ticksLeft s = 1) :
    tick s = finish .timeout .deadline (countDown s) ∧ s.attempts.toNat = s.maxRetries.toNat + 1 := by
  obtain ⟨hdl, hattempts⟩ := h.busyInv.ticksLeft_eq_one_iff.mp hticks
  have hend : ¬ mayRetry s (attemptFailure s).1 := by rw [h.mayRetry_iff]; omega
  exact ⟨by rw [tick_of_expiry h.busy hdl hend, h.attemptFailure_eq], hattempts⟩

end

/-! ### A cycle of a silent channel -/

/-- The sub-step of a TX transfer (44_cycle.md R134 step 2). -/
def txStep (c : Cycle) (s : State) : State := if s.phase = .tx ∧ c.txReady = true then txAccept s else s

theorem channelSteps_of_silent {c : Cycle} (hc : silentChannel c) (s : State) :
    channelSteps c s = if c.isTick = true ∧ (txStep c s).phase ≠ .idle then tick (txStep c s) else txStep c s := by
  obtain ⟨-, hrx, hclosed, herr⟩ := hc
  simp only [channelSteps, hrx, hclosed, herr, Bool.false_eq_true, false_and, or_self, and_false, if_false]
  rfl

theorem txStep_waitsOn (c : Cycle) {s : State} (h : Awaiting s) : WaitsOn 0 s (txStep c s) := by
  unfold txStep
  split
  case isTrue htx =>
    refine ⟨⟨txAccept_inv h.inv htx.1, ?_, h.invSeen, h.retry⟩, rfl, rfl⟩
    rw [txAccept_phase]
    split
    · exact .inr rfl
    · exact h.phase
  case isFalse => exact ⟨h, rfl, rfl⟩

section
variable {s : State} {c : Cycle} {rest : List Cycle}

theorem channelSteps_waitsOn (hc : silentChannel c) (h : Awaiting s) (hticks : tickCount [c] < ticksLeft s) :
    WaitsOn (tickCount [c]) s (channelSteps c s) := by
  have htx := txStep_waitsOn c h
  rw [channelSteps_of_silent hc]
  cases htick : c.isTick with
  | false =>
    have hcount : tickCount [c] = 0 := by simp [tickCount, htick]
    rw [if_neg (by simp), hcount]
    exact htx
  | true =>
    have hcount : tickCount [c] = 1 := by simp [tickCount, htick]
    have hmore : ticksLeft (txStep c s) ≠ 1 := by have := htx.ticks; omega
    rw [if_pos ⟨rfl, htx.awaiting.busy⟩, hcount]
    exact htx.trans (tick_waitsOn htx.awaiting hmore)

/-- The tick that uses up the budget. -/
theorem channelSteps_of_last (hc : silentChannel c) (htick : c.isTick = true) (h : Awaiting s)
    (hticks : ticksLeft s = 1) :
    ∃ n : BitVec 9, n.toNat = s.maxRetries.toNat + 1 ∧ IdleWith .timeout .deadline n (channelSteps c s)
      ∧ (channelSteps c s).done = true := by
  have htx := txStep_waitsOn c h
  obtain ⟨hend, hattempts⟩ := tick_of_last htx.awaiting (htx.ticks.trans hticks)
  rw [htx.maxRetries_eq] at hattempts
  rw [channelSteps_of_silent hc, if_pos ⟨htick, htx.awaiting.busy⟩, hend]
  exact ⟨_, hattempts, ⟨rfl, rfl, rfl, rfl⟩, rfl⟩

theorem stepNext_waitsOn (hinputs : s.inputs = c :: rest) (hc : silentChannel c) (h : Awaiting s)
    (hticks : tickCount [c] < ticksLeft s) : WaitsOn (tickCount [c]) s (stepNext s) := by
  have hwait := channelSteps_waitsOn hc h hticks
  have hinv := stepNext_inv h.inv
  obtain ⟨_, _, _, _, hstep⟩ := stepNext_of_busy hinputs hc.1 hwait.awaiting.busy
  rw [hstep] at hinv ⊢
  exact ⟨{ hwait.awaiting with inv := hinv }, hwait.policy, hwait.ticks⟩

end

/-! ### The run -/

theorem iterate_waitsOn {s : State} (h : Awaiting s) {cs rest : List Cycle} (hinputs : s.inputs = cs ++ rest)
    (hsilent : ∀ c ∈ cs, silentChannel c) (hticks : tickCount cs < ticksLeft s) :
    WaitsOn (tickCount cs) s (stepNext^[cs.length] s) := by
  induction cs generalizing s with
  | nil => exact ⟨h, rfl, rfl⟩
  | cons c cs ih =>
    obtain ⟨hc, hcs⟩ := List.forall_mem_cons.mp hsilent
    rw [tickCount_cons] at hticks ⊢
    have hstep := stepNext_waitsOn hinputs hc h (by omega)
    have hleft := hstep.ticks
    exact hstep.trans (ih hstep.awaiting (stepNext_inputs hinputs) hcs (by omega))

theorem iterate_idleWith {o : TxnOutcome} {r : Reason} {n : BitVec 9} {s : State} (h : IdleWith o r n s)
    {cs : List Cycle} (hinputs : s.inputs = cs) (hquiet : ∀ c ∈ cs, startsNothing s.cfg c) :
    IdleWith o r n (stepNext^[cs.length] s) := by
  induction cs generalizing s with
  | nil => exact h
  | cons c cs ih =>
    obtain ⟨hc, hcs⟩ := List.forall_mem_cons.mp hquiet
    have hstep := stepNext_of_idle hinputs hc (by rwa [channelSteps_of_idle c h.phase])
    exact ih hstep (stepNext_inputs hinputs) (stepNext_cfg s ▸ hcs)

/-- The cycle that ends a transaction, and the cycles behind it. -/
theorem iterate_of_ending {o : TxnOutcome} {r : Reason} {n : BitVec 9} {s : State} {c : Cycle} {rest : List Cycle}
    (hinputs : s.inputs = c :: rest) (hend : IdleWith o r n (channelSteps c s))
    (hquiet : ∀ d ∈ c :: rest, startsNothing s.cfg d) : IdleWith o r n (stepNext^[(c :: rest).length] s) := by
  obtain ⟨hc, hrest⟩ := List.forall_mem_cons.mp hquiet
  exact iterate_idleWith (stepNext_of_idle hinputs hc hend) (stepNext_inputs hinputs) (stepNext_cfg s ▸ hrest)

/-- After `k` ticks of the budget the attempt is the one that `k` falls in. -/
theorem BusyInv.attempts_eq {s : State} (h : BusyInv s) {k : Nat} (hticks : ticksLeft s + k = tickBudget s) :
    s.attempts.toNat = k / s.timeout.toNat + 1 := by
  obtain ⟨-, -, -, hpos, hle, hfirst, hlast⟩ := h
  obtain ⟨done, hdone⟩ := Nat.exists_eq_add_of_le' hfirst
  obtain ⟨left, hleft⟩ := Nat.exists_eq_add_of_le hlast
  have hk : s.dl.toNat + k = done * s.timeout.toNat + s.timeout.toNat := by
    rw [ticksLeft, tickBudget, hleft, Nat.add_sub_cancel_left, hdone, Nat.add_mul, Nat.succ_mul] at hticks
    omega
  have hdiv : k / s.timeout.toNat = done :=
    Nat.div_eq_of_lt_le (by omega) (by rw [Nat.succ_mul]; omega)
  rw [hdiv, hdone]

theorem ticksLeft_of_first {s : State} (hattempts : s.attempts = 1#9) (hdl : s.dl = s.timeout) :
    ticksLeft s = tickBudget s := by
  have hone : s.attempts.toNat = 1 := congrArg BitVec.toNat hattempts
  rw [ticksLeft, tickBudget, hdl, hone, Nat.succ_mul, Nat.add_sub_cancel, Nat.add_comm]

/-- Settles O56: up to the last tick of the budget the transaction waits, which tells the attempt; the last tick ends it, and
cycles that start nothing keep the result. -/
theorem silentChannelUsesTheRetryBudget : Obligations.SilentChannelUsesTheRetryBudget := by
  intro s h htx hattempts hdl hretry hsilent
  have hwait : Awaiting s := ⟨h, .inl htx, (h.tx htx).invSeen, hretry⟩
  have hbudget := ticksLeft_of_first hattempts hdl
  refine ⟨fun hticks => ?_, fun cs rest c hinputs hticks htick => ?_⟩
  · have hrun := iterate_waitsOn hwait (List.append_nil _).symm hsilent (hbudget ▸ hticks)
    have hsame : tickBudget (stepNext^[s.inputs.length] s) = tickBudget s := by
      rw [tickBudget, hrun.timeout_eq, hrun.maxRetries_eq, tickBudget]
    refine ⟨_, core_run_eq_next _ s, hrun.awaiting.busy, ?_⟩
    rw [hrun.awaiting.busyInv.attempts_eq (hrun.ticks.trans (hbudget.trans hsame.symm)), hrun.timeout_eq]
  · rw [hinputs, List.forall_mem_append, List.forall_mem_cons] at hsilent
    obtain ⟨hcs, hc, -⟩ := hsilent
    have hrun := iterate_waitsOn hwait hinputs hcs (by omega)
    obtain ⟨-, hcfg, hnext⟩ := iterate_stepNext h hinputs
    have hlast : ticksLeft (stepNext^[cs.length] s) = 1 := by have := hrun.ticks; omega
    obtain ⟨n, hn, hend, hdone⟩ := channelSteps_of_last hc htick hrun.awaiting hlast
    rw [hrun.maxRetries_eq] at hn
    refine ⟨_, _, core_run_eq_next _ s, hrun.awaiting.busy, rfl, hend.phase, hdone, hend.outcome, hend.reason,
      hend.attempts ▸ hn, fun hquiet => ⟨_, core_run_eq_next _ s, ?_⟩⟩
    have hlength : s.inputs.length = (c :: rest).length + cs.length := by rw [hinputs, List.length_append, Nat.add_comm]
    obtain ⟨hphase, houtcome, hreason, hattempts'⟩ := iterate_of_ending hnext hend (hcfg ▸ hquiet)
    rw [hlength, Function.iterate_add_apply]
    exact ⟨hphase, houtcome, hreason, hattempts' ▸ hn⟩

end Sys2Proof.Machine
end

section
/-! PROOFS. The host operations on the registers: reads that answer what a register holds, writes that store their operand or
are ignored, and the commands of CTRL (10_state.md R27 to R33; 43_host_ops.md R110 to R116, R123 to R132). -/

namespace Sys2Proof

/-! ### The numbers of the dialect fit their fields of CFG0 (10_state.md R27) -/

theorem Config.startLen_lt (cfg : Config) : cfg.startLen < 2 ^ 2 := Nat.lt_of_le_of_lt cfg.startLen_le (by decide)

theorem Config.lenW_lt (cfg : Config) : cfg.lenW < 2 ^ 2 := by
  have hcases := cfg.lenW_cases
  omega

theorem Config.chkW_lt (cfg : Config) : cfg.chkW < 2 ^ 2 := by
  have hcases := cfg.chkW_cases
  omega

theorem ByteOrder.code_lt (o : ByteOrder) : o.code < 2 ^ 1 := by cases o <;> decide

theorem ByteOrder.code_bit_iff (o : ByteOrder) : (BitVec.ofNat 1 o.code).getLsbD 0 = true ↔ o = .le := by
  cases o <;> decide

theorem ChkAlg.code_lt (alg : ChkAlg) : alg.code < 2 ^ 3 := by cases alg <;> decide

end Sys2Proof

namespace Sys2Proof.Machine

/-! ### CFG0, the dialect field by field -/

/-- A number that fits in `w` bits is, at bit `p` of a word, a field of `w` bits. -/
theorem ofNat_shiftLeft_eq_fieldAt {w n : Nat} (hn : n < 2 ^ w) (p : Nat) :
    BitVec.ofNat 32 n <<< p = fieldAt (BitVec.ofNat w n) p := by
  have hwiden : (BitVec.ofNat w n).setWidth 32 = BitVec.ofNat 32 n := by
    apply BitVec.eq_of_toNat_eq
    rw [BitVec.toNat_setWidth, BitVec.toNat_ofNat, BitVec.toNat_ofNat, Nat.mod_eq_of_lt hn]
  rw [fieldAt, hwiden]

/-- CFG0 as its fields at their places (10_state.md R27). -/
theorem cfg0Word_eq (cfg : Config) :
    cfg0Word cfg = fieldAt (BitVec.ofNat 2 cfg.startLen) 0 ||| fieldAt (BitVec.ofNat 2 cfg.lenW) 2
      ||| fieldAt (BitVec.ofNat 1 cfg.lenOrder.code) 4 ||| fieldAt (BitVec.ofNat 3 cfg.chkAlg.code) 5
      ||| fieldAt (BitVec.ofNat 1 cfg.chkOrder.code) 8 ||| fieldAt (BitVec.ofNat 2 cfg.chkW) 9
      ||| fieldAt cfg.start0 16 ||| fieldAt cfg.start1 24 := by
  rw [← ofNat_shiftLeft_eq_fieldAt cfg.startLen_lt, ← ofNat_shiftLeft_eq_fieldAt cfg.lenW_lt,
    ← ofNat_shiftLeft_eq_fieldAt (ByteOrder.code_lt _), ← ofNat_shiftLeft_eq_fieldAt (ChkAlg.code_lt _),
    ← ofNat_shiftLeft_eq_fieldAt (ByteOrder.code_lt _), ← ofNat_shiftLeft_eq_fieldAt cfg.chkW_lt,
    BitVec.shiftLeft_zero]
  rfl

/-- Settles O13: the fields of CFG0 stand at disjoint places (`cfg0Word_eq`), so each is read back at its own,
and the numbers among them fit their fields. -/
theorem readCfg0AnswersTheDialect : Obligations.ReadCfg0AnswersTheDialect := by
  refine ⟨fun cfg d => (AccessRow.readRegister .cfg0 d).decodeAccess_eq, fun s => ?_⟩
  have hstartLen : (cfg0Word s.cfg).extractLsb' 0 2 = BitVec.ofNat 2 s.cfg.startLen := by
    simp [cfg0Word_eq, BitVec.extractLsb'_or]
  have hlenW : (cfg0Word s.cfg).extractLsb' 2 2 = BitVec.ofNat 2 s.cfg.lenW := by
    simp [cfg0Word_eq, BitVec.extractLsb'_or]
  have hlenOrder : (cfg0Word s.cfg).getLsbD 4 = (BitVec.ofNat 1 s.cfg.lenOrder.code).getLsbD 0 := by
    simp [cfg0Word_eq]
  have hchkAlg : (cfg0Word s.cfg).extractLsb' 5 3 = BitVec.ofNat 3 s.cfg.chkAlg.code := by
    simp [cfg0Word_eq, BitVec.extractLsb'_or]
  have hchkOrder : (cfg0Word s.cfg).getLsbD 8 = (BitVec.ofNat 1 s.cfg.chkOrder.code).getLsbD 0 := by
    simp [cfg0Word_eq]
  have hchkW : (cfg0Word s.cfg).extractLsb' 9 2 = BitVec.ofNat 2 s.cfg.chkW := by
    simp [cfg0Word_eq, BitVec.extractLsb'_or]
  have hstart1 : (cfg0Word s.cfg).extractLsb' 24 8 = s.cfg.start1 := by simp [cfg0Word_eq, BitVec.extractLsb'_or]
  refine ⟨cfg0Word s.cfg, by rw [exec_eq_next, execNext]; rfl, ?_, ?_, ?_, ?_, ?_, ?_, ?_, ?_, hstart1⟩
  · rw [hstartLen, BitVec.toNat_ofNat, Nat.mod_eq_of_lt s.cfg.startLen_lt]
  · rw [hlenW, BitVec.toNat_ofNat, Nat.mod_eq_of_lt s.cfg.lenW_lt]
  · rw [hlenOrder, ByteOrder.code_bit_iff]
  · rw [hchkAlg]
    cases s.cfg.chkAlg <;> rfl
  · rw [hchkOrder, ByteOrder.code_bit_iff]
  · rw [hchkW, BitVec.toNat_ofNat, Nat.mod_eq_of_lt s.cfg.chkW_lt]
  · simp [cfg0Word_eq, BitVec.extractLsb'_or]
  · simp [cfg0Word_eq, BitVec.extractLsb'_or]

/-! ### CFG1, CTRL and the request registers -/

/-- CFG1 holds MAX_PAYLOAD whole, which has at most 16 bits (10_state.md R28). -/
theorem cfg1Word_toNat (cfg : Config) : (cfg1Word cfg).toNat = cfg.maxPayload := by
  have hmax := cfg.maxPayload_lt
  rw [cfg1Word, BitVec.toNat_ofNat, Nat.mod_eq_of_lt (by omega)]

/-- Settles O14: `cfg1Word_toNat` says what CFG1 holds, and CTRL holds nothing. -/
theorem readCfg1AndCtrl : Obligations.ReadCfg1AndCtrl := by
  refine ⟨fun cfg d => ⟨?_, ?_⟩, fun s => ⟨?_, ?_⟩⟩
  · exact (AccessRow.readRegister .cfg1 d).decodeAccess_eq
  · exact (AccessRow.readRegister .ctrl d).decodeAccess_eq
  · exact ⟨cfg1Word s.cfg, by rw [exec_eq_next, execNext]; rfl, cfg1Word_toNat s.cfg⟩
  · rw [exec_eq_next, execNext]; rfl

/-- Settles O16: each of the registers is answered whole. -/
theorem readRequestRegisters : Obligations.ReadRequestRegisters := by
  refine ⟨fun cfg d => ⟨?_, ?_, ?_⟩, fun s => ⟨?_, ?_, ?_⟩⟩
  · exact (AccessRow.readRegister .req d).decodeAccess_eq
  · exact (AccessRow.readRegister .txlen d).decodeAccess_eq
  · exact (AccessRow.readRegister .policy d).decodeAccess_eq
  · rw [exec_eq_next, execNext]; rfl
  · rw [exec_eq_next, execNext, State.txlenWord, BitVec.ofNat_toNat]; rfl
  · rw [exec_eq_next, execNext, State.policyWord, BitVec.ofNat_toNat]; rfl

/-! ### Writes while idle, and writes that are ignored -/

/-- Settles O20: the three operations are guarded writes, which go through in IDLE. -/
theorem idleRequestWrites : Obligations.IdleRequestWrites := by
  refine fun s d n p hidle => ⟨?_, ?_, ?_⟩
  · rw [exec_eq_next, execNext, guardedWrite_of_idle _ hidle]; rfl
  · rw [exec_eq_next, execNext, guardedWrite_of_idle _ hidle]; rfl
  · rw [exec_eq_next, execNext, guardedWrite_of_idle _ hidle]; rfl

/-- The address of a word of the RX window, as a number (20_memory.md R45). -/
theorem windowAddr_rx_eq_ofNat (w : BitVec 14) : windowAddr 2#2 w = BitVec.ofNat 18 (0x20000 + 4 * w.toNat) := by
  have haddr : (windowAddr 2#2 w).toNat = 0x20000 + 4 * w.toNat := toNat_windowAddr 2#2 w
  rw [← haddr, BitVec.ofNat_toNat, BitVec.setWidth_eq]

/-- Settles O23: each of the operations answers the write and does nothing else, WR_RXP below WW. -/
theorem readOnlyWritesAreIgnored : Obligations.ReadOnlyWritesAreIgnored := by
  refine ⟨fun cfg d => ?_, ?_⟩
  · have hwrite (r : Csr) := (AccessRow.writeRegister (cfg := cfg) r d).decodeAccess_eq
    refine ⟨hwrite .cfg0, hwrite .cfg1, hwrite .status, hwrite .result, hwrite .nakrsn, hwrite .attempts,
      hwrite .deadline, fun w hw => ?_⟩
    rw [← windowAddr_rx_eq_ofNat]
    exact (AccessRow.writeRxp w d hw).decodeAccess_eq
  · rintro s i (rfl | rfl | rfl | rfl | rfl | rfl | rfl | ⟨w, rfl, hw⟩) <;> rw [exec_eq_next, execNext]
    any_goals rfl
    rw [if_pos hw]; rfl

/-! ### The commands of CTRL -/

/-- OP, the two bits of CTRL that choose the command, as a remainder (30_encoding.md R68). -/
theorem ctrlOp_eq_iff (d : Word) (op : BitVec 2) : d.extractLsb' 0 2 = op ↔ d.toNat % 4 = op.toNat := by
  simp [← BitVec.toNat_inj]

/-- Settles O25: with OP 0 the command is CTRL_NOP, which only answers the write. -/
theorem nopChangesNothing : Obligations.NopChangesNothing := by
  refine ⟨fun s => by rw [exec_eq_next, execNext]; rfl, fun cfg d hd => ?_⟩
  have hop : d.extractLsb' 0 2 = 0#2 := (ctrlOp_eq_iff d 0#2).mpr hd
  exact (AccessRow.writeRegister .ctrl d).decodeAccess_eq.trans (if_pos hop)

theorem executeCommand_of_busy {s : State} (hbusy : s.phase ≠ .idle) : executeCommand s = setErr .execWhileBusy s := by
  rcases executeCommand_cases s with ⟨-, he⟩ | ⟨hidle, -⟩ | ⟨hidle, -⟩ | ⟨hidle, -⟩
  · exact he
  all_goals exact absurd hidle hbusy

theorem executeCommand_of_too_long {s : State} (hidle : s.phase = .idle) (hlong : s.cfg.maxPayload < s.txLen.toNat) :
    executeCommand s = setErr .payloadTooLarge s := by
  rcases executeCommand_cases s with ⟨hbusy, -⟩ | ⟨-, -, he⟩ | ⟨-, hlen, -⟩ | ⟨-, hlen, -⟩
  · exact absurd hidle hbusy
  · exact he
  all_goals exact absurd hlong (not_lt.mpr hlen)

/-- Settles O27: each way to be refused is one case of `executeCommand_cases`. -/
theorem refusedExecuteRecordsTheFirstCheck : Obligations.RefusedExecuteRecordsTheFirstCheck := by
  refine fun s => ⟨fun hbusy => ?_, fun hidle hlong => ?_, fun hidle hlen htime => ?_⟩
  · rw [exec_eq_next, execNext, executeCommand_of_busy hbusy]; rfl
  · rw [exec_eq_next, execNext, executeCommand_of_too_long hidle hlong]; rfl
  · rw [exec_eq_next, execNext, executeCommand_of_timeout_zero hidle hlen htime]; rfl

/-- Settles O28: the command is `acknowledge`, in every phase. -/
theorem ackClearsDoneAndErr : Obligations.AckClearsDoneAndErr := by
  intro s
  rw [exec_eq_next, execNext]
  rfl

/-- Settles O29: OP 3 is none of the three commands before it, and CTRL_RESERVED is `setErr` in every phase. -/
theorem reservedCommandRecordsReservedOp : Obligations.ReservedCommandRecordsReservedOp := by
  refine ⟨fun cfg d hd => ?_, fun s => by rw [exec_eq_next, execNext]; rfl⟩
  have hop : d.extractLsb' 0 2 = 3#2 := (ctrlOp_eq_iff d 3#2).mpr hd
  exact (AccessRow.writeRegister .ctrl d).decodeAccess_eq.trans (by rw [decodeCsrWrite, decodeCtrl, hop]; rfl)

end Sys2Proof.Machine
end

section
/-! PROOFS. The cycle against the rule: an access answers and stores what the address map says of it, so that a cycle without
reset is `cycleByRule`, and what follows for the outputs, for a quiet cycle and for a terminal frame (44_cycle.md R134, R135,
R137; 43_host_ops.md R108, R109; 60_exceptions.md R145, R146, R155). -/

namespace Sys2Proof

/-! ### Aligned accesses -/

theorem Access.aligned_iff (a : Access) : a.aligned = true ↔ a.hsize = 4 ∧ a.haddr.toNat % 4 = 0 := by
  simp [Access.aligned]

theorem Csr.offset_mod_four (r : Csr) : r.offset.toNat % 4 = 0 := by cases r <;> decide

theorem Access.aligned_register (hwrite : Bool) (r : Csr) (d : Word) :
    (⟨hwrite, r.offset, 4, d⟩ : Access).aligned = true :=
  (Access.aligned_iff _).mpr ⟨rfl, r.offset_mod_four⟩

theorem Access.aligned_windowAddr (hwrite : Bool) (base : BitVec 2) (w : BitVec 14) (d : Word) :
    (⟨hwrite, windowAddr base w, 4, d⟩ : Access).aligned = true := by
  refine (Access.aligned_iff _).mpr ⟨rfl, ?_⟩
  rw [toNat_windowAddr]
  omega

end Sys2Proof

namespace Sys2Proof.Machine

/-! ### The address map of the rule -/

section
variable (s : State) (d : Word)

/-- The rule's map for reads leaves out what is past the CSR page and in neither window (20_memory.md R45). -/
theorem readByRule_eq_none_iff {n : Nat} (haligned : n % 4 = 0) :
    readByRule s n = none ↔ 0x2C ≤ n ∧ ¬ (0x10000 ≤ n ∧ n < 0x10000 + 4 * s.cfg.windowWords)
      ∧ ¬ (0x20000 ≤ n ∧ n < 0x20000 + 4 * s.cfg.windowWords) := by
  simp only [readByRule, ite_eq_iff, reduceCtorEq, and_false, false_or, and_true]
  omega

/-- The rule's map for writes leaves out the same addresses (20_memory.md R45). -/
theorem writeByRule_eq_none_iff {n : Nat} (haligned : n % 4 = 0) :
    writeByRule s n d = none ↔ 0x2C ≤ n ∧ ¬ (0x10000 ≤ n ∧ n < 0x10000 + 4 * s.cfg.windowWords)
      ∧ ¬ (0x20000 ≤ n ∧ n < 0x20000 + 4 * s.cfg.windowWords) := by
  simp only [writeByRule, ite_eq_iff, reduceCtorEq, and_false, false_or, and_true]
  omega

variable {w : BitVec 14} (hw : w.toNat < s.cfg.windowWords)
include hw

theorem readByRule_txWindow :
    readByRule s (windowAddr 1#2 w).toNat = some (readWindow s.cfg s.txpByte w.toNat) := by
  have haddr : (windowAddr 1#2 w).toNat = 0x10000 + 4 * w.toNat := toNat_windowAddr 1#2 w
  have hword : (0x10000 + 4 * w.toNat - 0x10000) / 4 = w.toNat := by omega
  simp (disch := omega) only [readByRule, haddr, hword, if_neg, if_pos]

theorem readByRule_rxWindow :
    readByRule s (windowAddr 2#2 w).toNat = some (readWindow s.cfg s.rxpByte w.toNat) := by
  have haddr : (windowAddr 2#2 w).toNat = 0x20000 + 4 * w.toNat := toNat_windowAddr 2#2 w
  have hword : (0x20000 + 4 * w.toNat - 0x20000) / 4 = w.toNat := by omega
  have hwords := s.cfg.windowWords_le
  simp (disch := omega) only [readByRule, haddr, hword, if_neg, if_pos]

theorem writeByRule_txWindow :
    writeByRule s (windowAddr 1#2 w).toNat d
      = some (if s.phase ≠ .idle then setErr .writeWhileBusy s
          else { s with txp := writeWindow s.cfg s.txp w.toNat d }) := by
  have haddr : (windowAddr 1#2 w).toNat = 0x10000 + 4 * w.toNat := toNat_windowAddr 1#2 w
  have hword : (0x10000 + 4 * w.toNat - 0x10000) / 4 = w.toNat := by omega
  have hwindow : 0x10000 ≤ 0x10000 + 4 * w.toNat ∧ 0x10000 + 4 * w.toNat < 0x10000 + 4 * s.cfg.windowWords := by omega
  simp (disch := omega) only [writeByRule, haddr, hword, if_neg, if_pos hwindow]

theorem writeByRule_rxWindow : writeByRule s (windowAddr 2#2 w).toNat d = some s := by
  have haddr : (windowAddr 2#2 w).toNat = 0x20000 + 4 * w.toNat := toNat_windowAddr 2#2 w
  have hwords := s.cfg.windowWords_le
  simp (disch := omega) only [writeByRule, haddr, if_neg, if_pos]

end

/-! ### Mapped and unmapped accesses by the rule -/

section
variable (s : State) (a : Access)

/-- What the rule answers to a read: a value where the access is mapped, else 0 with a bus error. -/
theorem hostReadByRule_cases :
    (a.Unmapped s.cfg ∧ hostReadByRule s a = (0#32, true))
      ∨ (¬ a.Unmapped s.cfg ∧ ∃ v, readByRule s a.haddr.toNat = some v ∧ hostReadByRule s a = (v, false)) := by
  unfold hostReadByRule Access.Unmapped
  by_cases haligned : a.aligned = true
  · obtain ⟨hsize, hlow⟩ := a.aligned_iff.mp haligned
    have hnone := readByRule_eq_none_iff s hlow
    cases hread : readByRule s a.haddr.toNat <;> simp_all
  · have hmalformed := mt a.aligned_iff.mpr haligned
    exact .inl ⟨by tauto, if_neg haligned⟩

/-- What the rule does with a write: a state where the access is mapped, else nothing but a bus error. -/
theorem hostWriteByRule_cases :
    (a.Unmapped s.cfg ∧ hostWriteByRule s a = (s, true))
      ∨ (¬ a.Unmapped s.cfg
        ∧ ∃ t, writeByRule s a.haddr.toNat a.hwdata = some t ∧ hostWriteByRule s a = (t, false)) := by
  unfold hostWriteByRule Access.Unmapped
  by_cases haligned : a.aligned = true
  · obtain ⟨hsize, hlow⟩ := a.aligned_iff.mp haligned
    have hnone := writeByRule_eq_none_iff s a.hwdata hlow
    cases hwrite : writeByRule s a.haddr.toNat a.hwdata <;> simp_all
  · have hmalformed := mt a.aligned_iff.mpr haligned
    exact .inl ⟨by tauto, if_neg haligned⟩

end

section
variable {s : State} {a : Access}

theorem hostReadByRule_of_unmapped (h : a.Unmapped s.cfg) : hostReadByRule s a = (0#32, true) := by
  rcases hostReadByRule_cases s a with ⟨-, he⟩ | ⟨hmapped, -⟩
  · exact he
  · exact absurd h hmapped

theorem hostReadByRule_of_some {v : Word} (haligned : a.aligned = true) (hread : readByRule s a.haddr.toNat = some v) :
    hostReadByRule s a = (v, false) := by
  rw [hostReadByRule, if_pos haligned, hread]

theorem hostWriteByRule_of_unmapped (h : a.Unmapped s.cfg) : hostWriteByRule s a = (s, true) := by
  rcases hostWriteByRule_cases s a with ⟨-, he⟩ | ⟨hmapped, -⟩
  · exact he
  · exact absurd h hmapped

theorem hostWriteByRule_of_some {t : State} (haligned : a.aligned = true)
    (hwrite : writeByRule s a.haddr.toNat a.hwdata = some t) : hostWriteByRule s a = (t, false) := by
  rw [hostWriteByRule, if_pos haligned, hwrite]

end

/-- bus_err is a function of the access only (44_cycle.md R135, 60_exceptions.md R145). -/
theorem hostReadByRule_busErr (s : State) (a : Access) :
    (hostReadByRule s a).2 = !isMapped s.cfg a.haddr a.hsize := by
  rcases hostReadByRule_cases s a with ⟨hun, he⟩ | ⟨hmapped, v, -, he⟩
  · rw [he, (isMapped_eq_false_iff s.cfg a).mpr hun]; rfl
  · rw [← isMapped_eq_false_iff, Bool.not_eq_false] at hmapped
    rw [he, hmapped]; rfl

theorem hostWriteByRule_busErr (s : State) (a : Access) :
    (hostWriteByRule s a).2 = !isMapped s.cfg a.haddr a.hsize := by
  rcases hostWriteByRule_cases s a with ⟨hun, he⟩ | ⟨hmapped, t, -, he⟩
  · rw [he, (isMapped_eq_false_iff s.cfg a).mpr hun]; rfl
  · rw [← isMapped_eq_false_iff, Bool.not_eq_false] at hmapped
    rw [he, hmapped]; rfl

/-! ### A host read is the rule's read -/

/-- The decoded operation of a read answers what the rule reads off the address map (43_host_ops.md R108). -/
theorem execNext_read_eq {s : State} {a : Access} {i : Instr} (h : AccessRow s.cfg a i) (hread : a.hwrite = false)
    (o : Outputs) :
    execNext i (withOutputs o s)
      = withOutputs { o with hrdata := (hostReadByRule s a).1, busErr := (hostReadByRule s a).2 } s := by
  cases h with
  | readRegister r d =>
    obtain ⟨v, hv, hexec⟩ : ∃ v, readByRule s r.offset.toNat = some v
        ∧ execNext (decodeCsrRead r) (withOutputs o s) = withOutputs { o with hrdata := v, busErr := false } s := by
      cases r <;> exact ⟨_, rfl, rfl⟩
    rw [hexec, hostReadByRule_of_some (Access.aligned_register false r d) hv]
  | readTxp w d hw =>
    rw [hostReadByRule_of_some (Access.aligned_windowAddr false 1#2 w d) (readByRule_txWindow s hw)]
    exact readPayloadWindow_of_lt (s := withOutputs o s) s.txpByte hw
  | readRxp w d hw =>
    rw [hostReadByRule_of_some (Access.aligned_windowAddr false 2#2 w d) (readByRule_rxWindow s hw)]
    exact readPayloadWindow_of_lt (s := withOutputs o s) s.rxpByte hw
  | busError _ hun =>
    rw [hostReadByRule_of_unmapped hun, hread]
    rfl
  | writeRegister | writeTxp | writeRxp => cases hread

/-! ### A host write is the rule's write -/

theorem guardedWrite_withOutputs {write : State → State} {o : Outputs} {s : State}
    (hwrite : write (withOutputs o s) = withOutputs o (write s)) :
    guardedWrite write (withOutputs o s)
      = withOutputs { o with busErr := false } (if s.phase ≠ .idle then setErr .writeWhileBusy s else write s) := by
  split
  case isTrue hbusy => exact guardedWrite_of_busy write (s := withOutputs o s) hbusy
  case isFalse hidle =>
    rw [guardedWrite_of_idle write (s := withOutputs o s) (not_not.mp hidle), hwrite]
    rfl

theorem executeCommand_withOutputs (o : Outputs) (s : State) :
    executeCommand (withOutputs o s) = withOutputs o (executeCommand s) := by
  simp only [executeCommand, apply_ite (withOutputs o)]
  rfl

/-- A write of CTRL runs the command that the rule names by the remainder of HWDATA (43_host_ops.md R129 to R132). -/
theorem writeByRule_ctrl (s : State) (d : Word) (o : Outputs) :
    ∃ t, writeByRule s 0x08 d = some t
      ∧ execNext (decodeCtrl d) (withOutputs o s) = withOutputs { o with busErr := false } t := by
  rw [writeByRule, if_pos rfl]
  rcases decodeCtrl_cases d with ⟨hop, he⟩ | ⟨hop, he⟩ | ⟨hop, he⟩ | ⟨hop, he⟩
  all_goals rw [he, (ctrlOp_eq_iff d _).mp hop]
  · exact ⟨s, rfl, rfl⟩
  · refine ⟨executeCommand s, ?_, congrArg answerWrite (executeCommand_withOutputs o s)⟩
    simp [executeCommand, State.busy, apply_ite some]
  · exact ⟨acknowledge s, rfl, rfl⟩
  · exact ⟨setErr .reservedOp s, rfl, rfl⟩

/-- A write of a register leaves what the rule says (43_host_ops.md R109, R123 to R132). -/
theorem writeByRule_register (r : Csr) (s : State) (d : Word) (o : Outputs) :
    ∃ t, writeByRule s r.offset.toNat d = some t
      ∧ execNext (decodeCsrWrite d r) (withOutputs o s) = withOutputs { o with busErr := false } t := by
  cases r with
  | ctrl => exact writeByRule_ctrl s d o
  | req => exact ⟨_, rfl, guardedWrite_withOutputs (write := fun s => { s with req := d }) rfl⟩
  | txlen =>
    exact ⟨_, rfl, guardedWrite_withOutputs (write := fun s => { s with txLen := BitVec.ofNat 16 d.toNat }) rfl⟩
  | policy =>
    exact ⟨_, rfl, guardedWrite_withOutputs (write := fun s => { s with policy := BitVec.ofNat 26 d.toNat }) rfl⟩
  | cfg0 | cfg1 | status | result | nakrsn | attempts | deadline => exact ⟨s, rfl, rfl⟩

/-- The decoded operation of a write leaves and answers what the rule says of the access (43_host_ops.md R109). -/
theorem execNext_write_eq {s : State} {a : Access} {i : Instr} (h : AccessRow s.cfg a i) (hwrite : a.hwrite = true)
    (o : Outputs) :
    execNext i (withOutputs o s)
      = withOutputs { o with busErr := (hostWriteByRule s a).2 } (hostWriteByRule s a).1 := by
  cases h with
  | writeRegister r d =>
    obtain ⟨t, ht, hexec⟩ := writeByRule_register r s d o
    rw [hexec, hostWriteByRule_of_some (Access.aligned_register true r d) ht]
  | writeTxp w d hw =>
    rw [hostWriteByRule_of_some (Access.aligned_windowAddr true 1#2 w d) (writeByRule_txWindow s d hw)]
    refine (if_pos hw).trans (guardedWrite_withOutputs ?_)
    rfl
  | writeRxp w d hw =>
    rw [hostWriteByRule_of_some (Access.aligned_windowAddr true 2#2 w d) (writeByRule_rxWindow s d hw)]
    exact if_pos hw
  | busError _ hun =>
    rw [hostWriteByRule_of_unmapped hun, hwrite]
    rfl
  | readRegister | readTxp | readRxp => cases hwrite

/-! ### The cycle is the rule's cycle -/

theorem cycleOps_of_write {cfg : Config} {c : Cycle} {a : Access} (haccess : c.access = some a) (hwrite : a.hwrite = true) :
    cycleOps cfg c = decodeEvents c.iv ++ [decodeAccess cfg a] := by
  simp [cycleOps, haccess, hwrite]

theorem channelSteps_cfg (c : Cycle) (s : State) : (channelSteps c s).cfg = s.cfg := by
  rw [← execNextAll_decodeEvents]
  exact (execNextAll_sameBlock _ s).cfg

/-- The events of a cycle do their sub-steps whatever the outputs are. -/
theorem execNextAll_decodeEvents_withOutputs (c : Cycle) (o : Outputs) (s : State) :
    execNextAll (decodeEvents c.iv) (withOutputs o s) = withOutputs o (channelSteps c s) := by
  rw [execNextAll_withOutputs (fun _ => isEvent_of_mem_decodeEvents), execNextAll_decodeEvents]

/-- The operations of a cycle, run on the outputs of its start, are the cycle of 44_cycle.md R134. -/
theorem execNextAll_cycleOps (c : Cycle) (s : State) :
    execNextAll (cycleOps s.cfg c) (beginCycle s) = cycleByRule c s := by
  have hbegin : beginCycle s = withOutputs (cycleOutputs s) s := rfl
  rw [hbegin]
  cases haccess : c.access with
  | none =>
    rw [cycleOps, cycleByRule, readStep, writeStep, haccess]
    exact execNextAll_decodeEvents_withOutputs c _ s
  | some a =>
    have hrow : AccessRow s.cfg a (decodeAccess s.cfg a) := accessRow_iff.mpr rfl
    cases hwrite : a.hwrite with
    | false =>
      rw [cycleOps_of_read haccess hwrite, execNextAll, List.foldl_cons, execNext_read_eq hrow hwrite]
      refine (execNextAll_decodeEvents_withOutputs c _ s).trans ?_
      simp only [cycleByRule, readStep, writeStep, haccess, hwrite, Bool.false_eq_true, if_false, Bool.or_false]
      rfl
    | true =>
      rw [← channelSteps_cfg c s] at hrow
      rw [← channelSteps_cfg c s, cycleOps_of_write haccess hwrite, execNextAll_append,
        execNextAll_decodeEvents_withOutputs]
      refine (execNext_write_eq hrow hwrite _).trans ?_
      simp only [cycleByRule, readStep, writeStep, haccess, hwrite, if_true, Bool.false_or]
      rfl

theorem stepNext_eq_cycleByRule {s : State} {c : Cycle} {rest : List Cycle} (hinputs : s.inputs = c :: rest)
    (hrst : c.rst = false) : stepNext s = cycleByRule c { s with inputs := rest } :=
  (stepNext_of_not_rst hinputs hrst).trans (execNextAll_cycleOps c { s with inputs := rest })

/-- Settles O7: the host access of the cycle is read and written as the address map has it (`execNext_read_eq`,
`execNext_write_eq`), and the events between are the sub-steps of the rule. -/
theorem stepFollowsTheCycleRule : Obligations.StepFollowsTheCycleRule := by
  intro s c rest hinputs hrst
  rw [step_eq_next, stepNext_eq_cycleByRule hinputs hrst]

/-! ### Consequences for the outputs, a quiet cycle and a terminal frame -/

/-- Settles O9: the cycle of the rule drives these outputs, and both the rule's read and its write answer a bus error just
where the access is not mapped. -/
theorem outputsFollowTheStartState : Obligations.OutputsFollowTheStartState := by
  intro s t c rest hinputs hrst hstep
  rw [step_next_iff, stepNext_eq_cycleByRule hinputs hrst] at hstep
  subst hstep
  refine ⟨rfl, rfl, rfl, ?_, ?_⟩
  · simp only [cycleByRule, readStep, writeStep]
    cases c.access with
    | none => rfl
    | some a =>
      cases hwrite : a.hwrite
      · simp [hwrite, hostReadByRule_busErr]
      · simp [hwrite, hostWriteByRule_busErr, channelSteps_cfg]
  · simp only [cycleByRule, readStep]
    cases c.access with
    | none => rfl
    | some a => cases hwrite : a.hwrite <;> simp only [hwrite] <;> rfl

theorem channelSteps_quiet (s : State) : channelSteps Cycle.quiet s = s := (execNextAll_decodeEvents Cycle.quiet s).symm

/-- Settles O10: the cycle of the rule has no sub-step to do. -/
theorem quietCycleHoldsTheState : Obligations.QuietCycleHoldsTheState := by
  intro s rest hinputs
  refine ⟨_, step_eq_next s, ?_⟩
  rw [stepNext_eq_cycleByRule hinputs rfl, cycleByRule, channelSteps_quiet]
  rfl

theorem decodeEvents_zero : decodeEvents 0#13 = [] := rfl

/-- An encoding of one operation, as the only input of a cycle, gives the cycle that operation (30_encoding.md R67, R71). -/
theorem cycleOps_cycleOfEncoding {cfg : Config} {e : Encoding} {i : Instr} (h : decode cfg e = .ok i) :
    (cycleOfEncoding e).rst = false ∧ cycleOps cfg (cycleOfEncoding e) = [i] := by
  rcases decode_eq_ok h with ⟨a, rfl, hrow⟩ | ⟨v, rfl, hv⟩
  · have hreserved : (accessKey a.hwrite a.haddr a.hwdata).getLsbD 50 = false := getLsbD_accessKey _ _ _ 50
    have hcycle : cycleOfEncoding (.hbus a.hsize (accessKey a.hwrite a.haddr a.hwdata)) = ⟨false, 0#13, some a⟩ := by
      rw [cycleOfEncoding, hreserved, accessOfKey_accessKey]
      rfl
    rw [hcycle, ← hrow.decodeAccess_eq]
    refine ⟨rfl, ?_⟩
    cases hwrite : a.hwrite with
    | false => rw [cycleOps_of_read rfl hwrite, decodeEvents_zero]
    | true => rw [cycleOps_of_write rfl hwrite, decodeEvents_zero, List.nil_append]
  · exact ⟨rfl, hv⟩

theorem stepNext_of_inputs_nil {s : State} (hinputs : s.inputs = []) : stepNext s = beginCycle s := by
  have hnext : nextCycle s = Cycle.quiet := by rw [nextCycle, hinputs]; rfl
  have htake : takeCycle s = s := by rw [takeCycle, hinputs, List.tail_nil, ← hinputs]
  rw [stepNext, hnext, htake]
  rfl

/-- Settles O6: the cycle has one operation, or none where no input is left. -/
theorem stepRunsTheDecodedOperation : Obligations.StepRunsTheDecodedOperation := by
  refine ⟨fun s e rest i hinputs hdecode => ?_, fun s hinputs => ?_⟩
  · obtain ⟨hrst, hops⟩ := cycleOps_cycleOfEncoding hdecode
    rw [step_eq_next, exec_eq_next, stepNext_of_not_rst hinputs hrst, hops]
    rfl
  · rw [step_eq_next, stepNext_of_inputs_nil hinputs]

/-- Once a byte has ended the transaction, the failure lines and the tick of its cycle find the block idle (42_sequencer.md
R100, R102). -/
theorem channelSteps_of_ending_byte {c : Cycle} {s : State} (hrx : s.phase = .rx) (hvalid : c.rxValid = true)
    (hend : (rxByte c.rxData s).phase = .idle) : channelSteps c s = rxByte c.rxData s := by
  simp [channelSteps, hrx, hvalid, hend]

/-- A byte that completes an awaited frame ends the transaction (41_synchronizer.md R88, 42_sequencer.md R95). -/
theorem rxByte_of_awaited {s : State} {b : Byte} {f : Frame} {n : Nat}
    (hok : decodeFrame s.cfg (s.rxBuf ++ [b]) = .ok f n) (hcmd : f.cmd = s.reqNakCmd ∨ f.cmd = s.reqRspCmd) :
    IdleWith (if f.cmd = s.reqNakCmd then .nak else .success) .none s.attempts (rxByte b s) ∧ (rxByte b s).done = true := by
  rcases classify_cases f (appendRx b s) with ⟨hnak, he⟩ | ⟨hnak, -, he⟩ | ⟨hnak, hrsp, -⟩
  · rw [rxByte_of_terminal hok he]
    exact ⟨⟨rfl, (if_pos hnak).symm, rfl, rfl⟩, rfl⟩
  · rw [rxByte_of_terminal hok he]
    exact ⟨⟨rfl, (if_neg hnak).symm, rfl, rfl⟩, rfl⟩
  · exact absurd hcmd (not_or_intro hnak hrsp)

/-- Settles O52: the byte comes before the failure lines and the tick, which do nothing in an idle block, and the cycle has no
host write. -/
theorem terminalFrameWinsItsCycle : Obligations.TerminalFrameWinsItsCycle := by
  intro s c rest f n hinputs hrst haccess hvalid hrx hok hcmd
  obtain ⟨hend, hdone⟩ := rxByte_of_awaited (s := { s with inputs := rest }) hok hcmd
  refine ⟨_, step_eq_next s, ?_⟩
  rw [stepNext_eq_cycleByRule hinputs hrst, cycleByRule, writeStep, haccess,
    channelSteps_of_ending_byte (s := { s with inputs := rest }) hrx hvalid hend.phase]
  exact ⟨hend.phase, hdone, hend.reason, hend.attempts, hend.outcome⟩

end Sys2Proof.Machine
end
